-- ==== Sys2Proof/Word.lean ====
section
/-! DEFINITION. The widths of the block's data (00_scope.md R10, R14) and the two closed operand alphabets the
command word and the parameters use. All values are unsigned; bit 0 is the least significant bit (R14). -/

namespace Sys2Proof

/-- A bus byte, an opcode, a command code, the control byte. -/
abbrev Byte := BitVec 8
/-- The host command word, 64 bits, presented whole (30_encoding.md R100). -/
abbrev Word64 := BitVec 64
/-- A codec register index or an I2C device address: 7 bits (`CODEC_REG_BITS`, 00_scope.md R10). -/
abbrev Bits7 := BitVec 7
/-- A codec register value: 9 bits (`CODEC_VALUE_BITS`, 00_scope.md R10). -/
abbrev Bits9 := BitVec 9
/-- A DAC value after truncation: 12 bits (`DAC_VALUE_BITS`, 00_scope.md R10). -/
abbrev Bits12 := BitVec 12
/-- An index of the codec shadow, 0 to 9 (`SHADOW_COUNT` = 10, 10_state.md R50). -/
abbrev ShadowIndex := Fin 10

/-- The shadow index as the 7-bit register index it names (20_memory.md R77 (a), (b)). -/
def ShadowIndex.toReg (i : ShadowIndex) : Bits7 := BitVec.ofNat 7 i.val

/-- The DAC command selector of 30_encoding.md R106: SEL 0, 1, 2. SEL 3 names no command and is no constructor. -/
inductive DacSel where
  /-- SEL 0, write to channel B and buffer (`bbuf`). -/
  | bBuf
  /-- SEL 1, write to the buffer only (`buf`). -/
  | buf
  /-- SEL 2, write to channel A and update channel B from the buffer (`aupd`). -/
  | aUpd
  deriving DecidableEq, Repr

/-- One of the four clock phase and polarity modes (`SPI_MODE`, 00_scope.md R10). -/
structure SpiMode where
  polarity : Bool
  phase : Bool
  deriving DecidableEq, Repr, Inhabited

/-- The identity of the DAC's chip-select line (`DAC_CS_LINE`, 10_state.md R35): only ever compared for equality. -/
structure CsLine where
  id : Nat
  deriving DecidableEq, Repr, Inhabited

end Sys2Proof
end

