-- ==== Sys2Proof/Config.lean ====
section
/-! DEFINITION. The implementation parameters of 00_scope.md R10, the constraints R11 to R13 on them, and
the OPEN values as opaque constants. A parameter set is plain data and a field of State (log entry 1),
so the meanings take every parameter as an argument and statements hold for every legal set. -/

namespace Sys2Proof.Config

/-- OPEN `DAC_CS_LINE` (00_scope.md R10, 92_eei_decisions.md D38; log entry 2). -/
opaque dacCsLine : CsLine
/-- OPEN `SPI_MODE` (00_scope.md R10, 92_eei_decisions.md D14; log entry 2). -/
opaque spiMode : SpiMode
/-- OPEN `SPI_CLOCK_DIVIDER`, a positive integer: the divider less one (00_scope.md R10, D14; log entry 2). -/
opaque spiClockDividerLessOne : Nat
/-- OPEN `T_SETTLE_US` (00_scope.md R10, 92_eei_decisions.md D15; log entry 2). -/
opaque tSettleUs : Nat
/-- OPEN `T_STARTUP_MS` (00_scope.md R10, 92_eei_decisions.md D32; log entry 2). -/
opaque tStartupMs : Nat
/-- OPEN `MCLK`, read by no rule (00_scope.md R10, 92_eei_decisions.md D32; log entry 2). -/
opaque mclk : Nat

/-- The parameter table of 00_scope.md R10. A field with a value has that value as the table's default (the ones the
table marks gk are PRESUMED by the spec itself, log entry 3); a field with none is OPEN there. The rows whose type is one
constant (`DAC_VALUE_BITS` and the like) are the types of Word.lean (log entry 4). -/
structure Params where
  dacCmdBAndBuffer : Byte := 0x00
  dacCmdBuffer : Byte := 0x10
  dacCmdAUpdateB : Byte := 0x80
  dacCmdField : Byte := 0x90
  dacCtrlFast : Byte := 0x40
  dacCtrlPowerdown : Byte := 0x20
  dacCsLine : CsLine
  spiMode : SpiMode
  spiClockDivider : Nat
  tSettleUs : Nat
  codecAddrLow : Bits7 := 0x1A
  codecAddrHigh : Bits7 := 0x1B
  /- R12 puts ten of the eleven register indices in 0..9: they have the shadow's index type, so a set that puts one
  of them elsewhere cannot be written (DESIGN CHOICE, log entry 12). -/
  regLeftLineIn : ShadowIndex := 0
  regRightLineIn : ShadowIndex := 1
  regLeftHpOut : ShadowIndex := 2
  regRightHpOut : ShadowIndex := 3
  regAnalogPath : ShadowIndex := 4
  regDigitalPath : ShadowIndex := 5
  regPowerDown : ShadowIndex := 6
  regInterfaceFormat : ShadowIndex := 7
  regSampling : ShadowIndex := 8
  regActive : ShadowIndex := 9
  regReset : Bits7 := 15
  /-- `IN_VOL_MASK`: the source settles the default, "setting the low 5 bits". -/
  inVolMask : Bits9 := 0x01F
  /-- `OUT_VOL_MASK`: the source settles the default, "setting the low 6 bits" (90_conflicts.md C5). -/
  outVolMask : Bits9 := 0x03F
  routeDacOnly : Bits9 := 0x010
  fmtShift : Nat := 0
  fmtBits : Nat := 2
  iwlShift : Nat := 2
  srShift : Nat := 2
  tStartupMs : Nat
  mclk : Nat
  deriving DecidableEq, Repr

/-- The parameter set of this hardware: every default of 00_scope.md R10, the OPEN ones the opaque constants. -/
def defaults : Params where
  dacCsLine := Config.dacCsLine
  spiMode := Config.spiMode
  spiClockDivider := Config.spiClockDividerLessOne + 1
  tSettleUs := Config.tSettleUs
  tStartupMs := Config.tStartupMs
  mclk := Config.mclk

/-- The types 00_scope.md R10 gives beyond a width: a positive clock divider and two distinct addresses. -/
abbrev FitsTypes (p : Params) : Prop :=
  0 < p.spiClockDivider ∧ p.codecAddrLow ≠ p.codecAddrHigh

/-- 00_scope.md R11 (a): a command code has bits 3:0 zero and lies inside `DAC_CMD_FIELD`. -/
abbrev CodeInField (p : Params) (c : Byte) : Prop :=
  c &&& 0x0F#8 = 0#8 ∧ c &&& ~~~p.dacCmdField = 0#8

/-- 00_scope.md R11 (d): a control bit is a single bit inside bits 6:5. -/
abbrev ControlBit (c : Byte) : Prop := c = 0x20#8 ∨ c = 0x40#8

/-- 00_scope.md R11, constraints (a) to (d) on the DAC parameters. -/
abbrev FitsR11 (p : Params) : Prop :=
  CodeInField p p.dacCmdBAndBuffer ∧ CodeInField p p.dacCmdBuffer ∧ CodeInField p p.dacCmdAUpdateB ∧
  p.dacCmdBAndBuffer ≠ p.dacCmdBuffer ∧ p.dacCmdBAndBuffer ≠ p.dacCmdAUpdateB ∧
  p.dacCmdBuffer ≠ p.dacCmdAUpdateB ∧
  p.dacCmdField &&& 0x0F#8 = 0#8 ∧ p.dacCmdField &&& (p.dacCtrlFast ||| p.dacCtrlPowerdown) = 0#8 ∧
  ControlBit p.dacCtrlFast ∧ ControlBit p.dacCtrlPowerdown ∧ p.dacCtrlFast ≠ p.dacCtrlPowerdown

/-- The ten shadowed register parameters, in the table's order (00_scope.md R12). -/
def shadowedRegs (p : Params) : List ShadowIndex :=
  [p.regLeftLineIn, p.regRightLineIn, p.regLeftHpOut, p.regRightHpOut, p.regAnalogPath, p.regDigitalPath,
   p.regPowerDown, p.regInterfaceFormat, p.regSampling, p.regActive]

/-- 00_scope.md R12: the eleven indices are distinct, ten in 0..9 (by their type), `REG_RESET` in 10..127. -/
abbrev FitsR12 (p : Params) : Prop :=
  (shadowedRegs p).Nodup ∧ 10 ≤ p.regReset.toNat

/-- 00_scope.md R13 on the codec's field positions (`ROUTE_DAC_ONLY` < 512 holds by its type). -/
abbrev FitsR13 (p : Params) : Prop :=
  1 ≤ p.fmtBits ∧ (p.fmtShift + p.fmtBits ≤ p.iwlShift ∨ p.iwlShift + 2 ≤ p.fmtShift) ∧
  p.fmtShift + p.fmtBits ≤ 9 ∧ p.iwlShift + 2 ≤ 9 ∧ p.srShift + 4 ≤ 9

/-- A parameter set for which a machine exists (00_scope.md R10 to R13, 60_exceptions.md R245). -/
abbrev Legal (p : Params) : Prop := FitsTypes p ∧ FitsR11 p ∧ FitsR12 p ∧ FitsR13 p

/-- What is fixed when the block is instantiated (10_state.md R35, R36; 70_reset_and_hazards.md R271): the parameters
and the two control flags, both false when omitted. -/
structure Instantiation where
  params : Params
  ctrlFast : Bool := false
  ctrlPowerDown : Bool := false
  deriving DecidableEq, Repr

end Sys2Proof.Config
end

