-- ==== Sys2Proof/Syntax.lean ====
section
/-! DEFINITION. The thirteen commands of the opcode map (30_encoding.md R104), one constructor per row of
spec/opcode_table.json, with the operands of its format (R102). Operand types hold exactly the legal values where the
legality does not depend on a parameter and is a plain width: SEL (R106), REG and VAL of SET (R108, R109), REG of GET
(R111), ADDR's seven bits (R113); the other operand checks are in WellFormed (DESIGN CHOICE, log entry 12). -/

namespace Sys2Proof

inductive Instr where
  /-- `DAC_BEGIN`, opcode 0x01, format N (40_dac.md R146). -/
  | dacBegin
  /-- `DAC_WRITE_DATA`, opcode 0x02, format DW (40_dac.md R147). -/
  | dacWriteData (sel : DacSel) (value : BitVec 16)
  /-- `DAC_WRITE`, opcode 0x03, format DW2 (40_dac.md R148). -/
  | dacWrite (va vb : BitVec 16)
  /-- `DAC_WRITE_DATA_FAST`, opcode 0x04, format DW (40_dac.md R149). -/
  | dacWriteDataFast (sel : DacSel) (value : BitVec 16)
  /-- `DAC_WRITE_FAST`, opcode 0x05, format DW2 (40_dac.md R150). -/
  | dacWriteFast (va vb : BitVec 16)
  /-- `CODEC_BEGIN`, opcode 0x10, format CB (41_codec.md R190). -/
  | codecBegin (addr : Bits7) (fmt wl : Byte) (rate : BitVec 32)
  /-- `CODEC_RESET`, opcode 0x11, format N (41_codec.md R191). -/
  | codecReset
  /-- `CODEC_SET_ACTIVE`, opcode 0x12, format N (41_codec.md R192). -/
  | codecSetActive
  /-- `CODEC_SET_INACTIVE`, opcode 0x13, format N (41_codec.md R193). -/
  | codecSetInactive
  /-- `CODEC_SET_INPUT_VOLUME`, opcode 0x14, format VOL (41_codec.md R194). -/
  | codecSetInputVolume (vol : Byte)
  /-- `CODEC_SET_OUTPUT_VOLUME`, opcode 0x15, format VOL (41_codec.md R195). -/
  | codecSetOutputVolume (vol : Byte)
  /-- `CODEC_SET`, opcode 0x16, format SET (41_codec.md R196). -/
  | codecSet (reg : Bits7) (val : Bits9)
  /-- `CODEC_GET`, opcode 0x17, format GET (41_codec.md R197). -/
  | codecGet (reg : ShadowIndex)
  deriving DecidableEq, Repr

end Sys2Proof
end

