-- ==== Sys2Proof/WellFormed.lean ====
section
/-! DEFINITION. The operand checks a command must pass beyond its operands' types (30_encoding.md R110, R113, R114).
Decode answers only commands that pass them. -/

namespace Sys2Proof

/-- 30_encoding.md R113: ADDR is one of the two strap addresses. -/
def addrLegal (p : Config.Params) (a : Bits7) : Bool := a == p.codecAddrLow || a == p.codecAddrHigh

/-- 30_encoding.md R114: `FMT < 2^FMT_BITS`. -/
def fmtLegal (p : Config.Params) (fmt : Byte) : Bool := decide (fmt.toNat < 2 ^ p.fmtBits)

/-- 30_encoding.md R110: an input volume is 0..31. -/
def inVolLegal (vol : Byte) : Bool := decide (vol.toNat ≤ 31)

/-- 30_encoding.md R110: an output volume is 0..63. -/
def outVolLegal (vol : Byte) : Bool := decide (vol.toNat ≤ 63)

/-- A command whose operands are all legal under the parameter set (30_encoding.md R106 to R116). -/
def Instr.wf (p : Config.Params) : Instr → Bool
  | .dacBegin => true
  | .dacWriteData _ _ => true
  | .dacWrite _ _ => true
  | .dacWriteDataFast _ _ => true
  | .dacWriteFast _ _ => true
  | .codecBegin addr fmt _ _ => addrLegal p addr && fmtLegal p fmt
  | .codecReset => true
  | .codecSetActive => true
  | .codecSetInactive => true
  | .codecSetInputVolume vol => inVolLegal vol
  | .codecSetOutputVolume vol => outVolLegal vol
  | .codecSet _ _ => true
  | .codecGet _ => true

end Sys2Proof
end

