-- ==== Sys2Proof/Decode.lean ====
section
/-! DEFINITION. The command word (30_encoding.md): formats (R102), opcode map (R104), decode in the order of R120, and
the encoder read off the same tables. Decode reads the parameter set and no state (R121). -/

namespace Sys2Proof

/-- The refusal reasons of 60_exceptions.md R244; each carries the refused command word. -/
inductive RefuseReason where
  /-- OP is not in the opcode map (30_encoding.md R104, R105). -/
  | unknownOpcode (w : Word64)
  /-- A reserved bit of the format is 1 (R103). -/
  | reservedBitSet (w : Word64)
  /-- CB: ADDR is not a strap address (R113). -/
  | addressRange (w : Word64)
  /-- CB: FMT is not below 2^FMT_BITS (R114). -/
  | formatRange (w : Word64)
  /-- DW: SEL is 3 (R106). -/
  | selReserved (w : Word64)
  /-- SET: REG is 128 or more (R108). -/
  | registerRange (w : Word64)
  /-- SET: VAL is 512 or more (R109). -/
  | valueRange (w : Word64)
  /-- VOL: the volume code is above its range (R110). -/
  | volumeRange (w : Word64)
  /-- GET: REG is 10 or more (R111). -/
  | getRange (w : Word64)
  deriving DecidableEq, Repr

/-- The seven formats of 30_encoding.md R102. -/
inductive Format where
  | n | dw | dw2 | vol | set | get | cb
  deriving DecidableEq, Repr

/-- The bits a format marks "(reserved)" (30_encoding.md R102, R103). -/
def Format.reserved : Format → Word64
  | .n => 0x00FFFFFFFFFFFFFF
  | .dw => 0x00FFFFFFFFFC0000
  | .dw2 => 0x00FFFFFF00000000
  | .vol => 0x00FFFFFFFFFFFF00
  | .set => 0x00FFFFFFFF000000
  | .get => 0x00FFFFFFFF00FFFF
  | .cb => 0x0000000000000000

/-- The thirteen assigned opcodes, in the order of 30_encoding.md R104. -/
inductive Opcode where
  | dacBegin | dacWriteData | dacWrite | dacWriteDataFast | dacWriteFast
  | codecBegin | codecReset | codecSetActive | codecSetInactive
  | codecSetInputVolume | codecSetOutputVolume | codecSet | codecGet
  deriving DecidableEq, Repr

/-- Column OP of 30_encoding.md R104. -/
def Opcode.code : Opcode → Byte
  | .dacBegin => 0x01
  | .dacWriteData => 0x02
  | .dacWrite => 0x03
  | .dacWriteDataFast => 0x04
  | .dacWriteFast => 0x05
  | .codecBegin => 0x10
  | .codecReset => 0x11
  | .codecSetActive => 0x12
  | .codecSetInactive => 0x13
  | .codecSetInputVolume => 0x14
  | .codecSetOutputVolume => 0x15
  | .codecSet => 0x16
  | .codecGet => 0x17

/-- Column format of 30_encoding.md R104. -/
def Opcode.format : Opcode → Format
  | .dacBegin => .n
  | .dacWriteData => .dw
  | .dacWrite => .dw2
  | .dacWriteDataFast => .dw
  | .dacWriteFast => .dw2
  | .codecBegin => .cb
  | .codecReset => .n
  | .codecSetActive => .n
  | .codecSetInactive => .n
  | .codecSetInputVolume => .vol
  | .codecSetOutputVolume => .vol
  | .codecSet => .set
  | .codecGet => .get

/-- The two units (00_scope.md R1, R3); column unit of 30_encoding.md R104. -/
inductive CmdUnit where
  | dac | codec
  deriving DecidableEq, Repr

/-- Column unit of 30_encoding.md R104. -/
def Opcode.unit : Opcode → CmdUnit
  | .dacBegin => .dac
  | .dacWriteData => .dac
  | .dacWrite => .dac
  | .dacWriteDataFast => .dac
  | .dacWriteFast => .dac
  | .codecBegin => .codec
  | .codecReset => .codec
  | .codecSetActive => .codec
  | .codecSetInactive => .codec
  | .codecSetInputVolume => .codec
  | .codecSetOutputVolume => .codec
  | .codecSet => .codec
  | .codecGet => .codec

/-- The map of 30_encoding.md R104 as a list. -/
def Opcode.all : List Opcode :=
  [.dacBegin, .dacWriteData, .dacWrite, .dacWriteDataFast, .dacWriteFast, .codecBegin, .codecReset, .codecSetActive,
   .codecSetInactive, .codecSetInputVolume, .codecSetOutputVolume, .codecSet, .codecGet]

/-- OP in bits 63:56, every other bit 0: column match of 30_encoding.md R104. -/
def Opcode.row (o : Opcode) : Word64 := o.code.setWidth 64 <<< 56

/-- Column mask of 30_encoding.md R104: the opcode bits and the format's reserved bits (R103). -/
def Opcode.rowMask (o : Opcode) : Word64 := 0xFF00000000000000#64 ||| o.format.reserved

/-- The opcode an opcode byte names, if it is in the map (30_encoding.md R104, R105). -/
def opcodeOf (b : Byte) : Option Opcode := Opcode.all.find? fun o => o.code == b

/-- OP of a command word (30_encoding.md R101). -/
def opByte (w : Word64) : Byte := w.extractLsb' 56 8

/-- SEL to selector (30_encoding.md R106): 3 names none. -/
def selOf (b : BitVec 2) : Option DacSel :=
  if b = 0#2 then some .bBuf else if b = 1#2 then some .buf else if b = 2#2 then some .aUpd else none

/-- The selector's SEL bits (30_encoding.md R106). -/
def selBits : DacSel → BitVec 2
  | .bBuf => 0#2
  | .buf => 1#2
  | .aUpd => 2#2

/-- Operands of format DW (30_encoding.md R102): SEL checked (R106). -/
def decodeDw (mk : DacSel → BitVec 16 → Instr) (w : Word64) : Except RefuseReason Instr :=
  match selOf (w.extractLsb' 16 2) with
  | none => .error (.selReserved w)
  | some sel => .ok (mk sel (w.extractLsb' 0 16))

/-- Operands of format DW2 (30_encoding.md R102): every value is legal (R107). -/
def decodeDw2 (mk : BitVec 16 → BitVec 16 → Instr) (w : Word64) : Except RefuseReason Instr :=
  .ok (mk (w.extractLsb' 16 16) (w.extractLsb' 0 16))

/-- Operand of format VOL (30_encoding.md R102), checked by the command's range (R110). -/
def decodeVol (legal : Byte → Bool) (mk : Byte → Instr) (w : Word64) : Except RefuseReason Instr :=
  if legal (w.extractLsb' 0 8) then .ok (mk (w.extractLsb' 0 8)) else .error (.volumeRange w)

/-- Operands of format SET (30_encoding.md R102): REG (R108) before VAL (R109), the order of R120. -/
def decodeSet (w : Word64) : Except RefuseReason Instr :=
  if 128 ≤ (w.extractLsb' 16 8).toNat then .error (.registerRange w)
  else if 512 ≤ (w.extractLsb' 0 16).toNat then .error (.valueRange w)
  else .ok (.codecSet (w.extractLsb' 16 7) (w.extractLsb' 0 9))

/-- Operand of format GET (30_encoding.md R102, R111). -/
def decodeGet (w : Word64) : Except RefuseReason Instr :=
  if h : (w.extractLsb' 16 8).toNat < 10 then .ok (.codecGet ⟨(w.extractLsb' 16 8).toNat, h⟩)
  else .error (.getRange w)

/-- Operands of format CB (30_encoding.md R102): ADDR (R113) before FMT (R114), the order of R120; WL and RATE are
always legal (R115, R116). ADDR is an 8-bit field that must equal a 7-bit address, so its top bit is 0. -/
def decodeCb (p : Config.Params) (w : Word64) : Except RefuseReason Instr :=
  if !(w.getLsbD 55 == false && addrLegal p (w.extractLsb' 48 7)) then .error (.addressRange w)
  else if !fmtLegal p (w.extractLsb' 40 8) then .error (.formatRange w)
  else .ok (.codecBegin (w.extractLsb' 48 7) (w.extractLsb' 40 8) (w.extractLsb' 32 8) (w.extractLsb' 0 32))

/-- Check (3) of 30_encoding.md R120 and the command with its operands. -/
def decodeOperands (p : Config.Params) (o : Opcode) (w : Word64) : Except RefuseReason Instr :=
  match o with
  | .dacBegin => .ok .dacBegin
  | .dacWriteData => decodeDw .dacWriteData w
  | .dacWrite => decodeDw2 .dacWrite w
  | .dacWriteDataFast => decodeDw .dacWriteDataFast w
  | .dacWriteFast => decodeDw2 .dacWriteFast w
  | .codecBegin => decodeCb p w
  | .codecReset => .ok .codecReset
  | .codecSetActive => .ok .codecSetActive
  | .codecSetInactive => .ok .codecSetInactive
  | .codecSetInputVolume => decodeVol inVolLegal .codecSetInputVolume w
  | .codecSetOutputVolume => decodeVol outVolLegal .codecSetOutputVolume w
  | .codecSet => decodeSet w
  | .codecGet => decodeGet w

/-- Decode of any 64-bit word, with the three checks in the order of 30_encoding.md R120. -/
def decode (p : Config.Params) (w : Word64) : Except RefuseReason Instr :=
  match opcodeOf (opByte w) with
  | none => .error (.unknownOpcode w)
  | some o =>
    if w &&& o.format.reserved ≠ 0#64 then .error (.reservedBitSet w)
    else decodeOperands p o w

/-- The opcode of a command (30_encoding.md R104). -/
def Instr.opcode : Instr → Opcode
  | .dacBegin => .dacBegin
  | .dacWriteData _ _ => .dacWriteData
  | .dacWrite _ _ => .dacWrite
  | .dacWriteDataFast _ _ => .dacWriteDataFast
  | .dacWriteFast _ _ => .dacWriteFast
  | .codecBegin _ _ _ _ => .codecBegin
  | .codecReset => .codecReset
  | .codecSetActive => .codecSetActive
  | .codecSetInactive => .codecSetInactive
  | .codecSetInputVolume _ => .codecSetInputVolume
  | .codecSetOutputVolume _ => .codecSetOutputVolume
  | .codecSet _ _ => .codecSet
  | .codecGet _ => .codecGet

/-- The operand fields of a command at their places in the word (30_encoding.md R102). -/
def operandBits : Instr → Word64
  | .dacBegin => 0#64
  | .dacWriteData sel value => (selBits sel).setWidth 64 <<< 16 ||| value.setWidth 64
  | .dacWrite va vb => va.setWidth 64 <<< 16 ||| vb.setWidth 64
  | .dacWriteDataFast sel value => (selBits sel).setWidth 64 <<< 16 ||| value.setWidth 64
  | .dacWriteFast va vb => va.setWidth 64 <<< 16 ||| vb.setWidth 64
  | .codecBegin addr fmt wl rate =>
    addr.setWidth 64 <<< 48 ||| fmt.setWidth 64 <<< 40 ||| wl.setWidth 64 <<< 32 ||| rate.setWidth 64
  | .codecReset => 0#64
  | .codecSetActive => 0#64
  | .codecSetInactive => 0#64
  | .codecSetInputVolume vol => vol.setWidth 64
  | .codecSetOutputVolume vol => vol.setWidth 64
  | .codecSet reg val => reg.setWidth 64 <<< 16 ||| val.setWidth 64
  | .codecGet reg => reg.toReg.setWidth 64 <<< 16

/-- The command word of a command: the words column of 30_encoding.md R125. -/
def encode (i : Instr) : Word64 := i.opcode.row ||| operandBits i

/-- What this hardware's decoder (with the default parameters of 00_scope.md R10) reads from a word numbered as
spec/opcode_table.json numbers it: a row is one 64-bit number, so the whole word is `w`, and bits at or above `nbits`
are 0. A number that does not fit in 64 bits is no command word. -/
def decodeTableWord (nbits w : Nat) : Option Instr :=
  if w % 2 ^ nbits < 2 ^ 64 then (decode Config.defaults (BitVec.ofNat 64 (w % 2 ^ nbits))).toOption else none

end Sys2Proof
end

