-- ==== Sys2Proof/Machine/State.lean ====
section
/-! DEFINITION. The machine state of 10_state.md (R30 to R57) with the instantiation and the host's side of the command
port, the event alphabet of 20_memory.md R70, the fault reasons of 60_exceptions.md R242, and reset (R270). -/

namespace Sys2Proof.Machine

/-- The bit order of `SpiConfig`: always `MsbFirst` (20_memory.md R70, R74). -/
inductive BitOrder where
  | msbFirst
  deriving DecidableEq, Repr

/-- The event alphabet of 20_memory.md R70; no other event exists. A delay is an event, not a passage of time (log entry
15). -/
inductive Event where
  /-- The SPI transfer parameters (DAC). -/
  | spiConfig (order : BitOrder) (mode : SpiMode) (div : Nat)
  /-- The chip-select line becomes an output (DAC). -/
  | csOutput (line : CsLine)
  /-- Chip-select deasserted (DAC). -/
  | csHigh (line : CsLine)
  /-- Chip-select asserted (DAC). -/
  | csLow (line : CsLine)
  /-- A settling delay of at least n microseconds (DAC; R71). -/
  | delayUs (n : Nat)
  /-- One SPI byte; the byte that comes back is discarded (DAC; R72). -/
  | spiXfer (b : Byte)
  /-- The fast path asks the host to hold off its interrupts (DAC). -/
  | irqOff
  /-- The fast path ends that request (DAC). -/
  | irqOn
  /-- One-time I2C bus initialization (codec). -/
  | i2cInit
  /-- The startup delay of at least n milliseconds (codec; R71). -/
  | delayMs (n : Nat)
  /-- One addressed write of two data bytes, b0 first (codec; R73). -/
  | i2cWrite (a : Bits7) (b0 b1 : Byte)
  deriving DecidableEq, Repr

/-- The unit whose bus or line an event belongs to: column unit of 20_memory.md R70. -/
def Event.unit : Event → CmdUnit
  | .spiConfig _ _ _ => .dac
  | .csOutput _ => .dac
  | .csHigh _ => .dac
  | .csLow _ => .dac
  | .delayUs _ => .dac
  | .spiXfer _ => .dac
  | .irqOff => .dac
  | .irqOn => .dac
  | .i2cInit => .codec
  | .delayMs _ => .codec
  | .i2cWrite _ _ _ => .codec

/-- The fault reasons of 60_exceptions.md R242; each carries the faulting command word. -/
inductive FaultReason where
  /-- A DAC write while `dac.begun` is false (40_dac.md R145). -/
  | dacNotBegun (w : Word64)
  /-- A codec bus command other than `CODEC_BEGIN` while no address is recorded (41_codec.md R185). -/
  | codecNotBegun (w : Word64)
  deriving DecidableEq, Repr

/-- The level the block drives on the chip-select line (10_state.md R39). -/
inductive CsLevel where
  | undriven | high | low
  deriving DecidableEq, Repr

/-- The DAC unit's state (10_state.md R38 to R40). -/
structure DacState where
  /-- `DAC_BEGIN` has completed at least once (R38). -/
  begun : Bool
  /-- The chip-select level (R39). -/
  cs : CsLevel
  /-- The request to hold off host interrupts (R40). -/
  irqInhibit : Bool
  deriving DecidableEq, Repr

/-- The codec unit's state (10_state.md R45 to R50). -/
structure CodecState where
  /-- Bus-master initialization has been done (R45). -/
  initialized : Bool
  /-- The recorded device address; `none` is the spec's own "no address recorded" (R46). -/
  addr : Option Bits7
  /-- The register shadow: ten cells of 9 bits (R50). -/
  shadow : Vector Bits9 10
  deriving DecidableEq, Repr

/-- The host's side of the command port (10_state.md R33): its finite program and the position of the next word. No
meaning of a command reads or writes it. -/
structure HostPort where
  program : List Word64
  k : Nat
  deriving DecidableEq, Repr

/-- The machine state S of 10_state.md R30, with the instantiation it was made for (immutable; R35, R36; log entry 1)
and the host's program (R33). -/
structure State where
  inst : Config.Instantiation
  dac : DacState
  codec : CodecState
  /-- Every event emitted since reset, oldest first (R31). -/
  trace : List Event
  /-- The result port (R32). -/
  result : Option Bits9
  /-- The first fault (R55). -/
  fault : Option FaultReason
  /-- The first refused command word (R56). -/
  refused : Option RefuseReason
  host : HostPort
  deriving DecidableEq, Repr

/-- Why a step has no next state: the block is stopped and takes no further command (30_encoding.md R122). A command's
own fault or refusal is not one of these: it is a next state with `fault` or `refused` set (log entry 7). -/
inductive Fault where
  /-- Raised by `step` on a state whose `fault` is set (60_exceptions.md R241). Safe: the spec gives no step. -/
  | stoppedByFault (r : FaultReason)
  /-- Raised by `step` on a state whose `refused` is set (60_exceptions.md R243). Safe: the spec gives no step. -/
  | stoppedByRefusal (r : RefuseReason)
  deriving DecidableEq, Repr

/-- Commands without a meaning. Every command of the opcode map has one, so no arm of `exec` raises this. -/
inductive Refusal where
  /-- Raised by `exec` for a command not modelled yet. Safe: nothing is claimed of it. -/
  | notModelled (mnemonic : String)
  deriving DecidableEq, Repr

/-- The state after power-up of a block with the given instantiation (70_reset_and_hazards.md R270, R271; 10_state.md
R57): the host has presented nothing (log entry 5). -/
def State.boot (c : Config.Instantiation) : State where
  inst := c
  dac := { begun := false, cs := .undriven, irqInhibit := false }
  codec := { initialized := false, addr := none, shadow := Vector.replicate 10 0#9 }
  trace := []
  result := none
  fault := none
  refused := none
  host := { program := [], k := 0 }

/-- Instantiation (60_exceptions.md R245): a parameter set that breaks 00_scope.md R11, R12 or R13 is refused, so no
machine exists for it; omitted flags are false (10_state.md R36). -/
def State.instantiate (p : Config.Params) (ctrlFast : Bool := false) (ctrlPowerDown : Bool := false) : Option State :=
  if Config.Legal p then some (State.boot { params := p, ctrlFast, ctrlPowerDown }) else none

/-- The machine right after reset, instantiated with the parameter values of 00_scope.md R10 and no control flag
given (10_state.md R57). -/
def State.reset : State := State.boot { params := Config.defaults }

end Sys2Proof.Machine
end

