-- ==== Sys2Proof/Machine/Operands.lean ====
section
/-! DEFINITION. The operand forms: the DAC command code of a selector (40_dac.md R144), the codec's lookups and register
values (41_codec.md R182, R183, R186, R187), the volume merge (R188), and the bytes of a register write (R184). -/

namespace Sys2Proof.Machine

/-- `CmdCode(SEL)` (40_dac.md R144; 30_encoding.md R106). -/
def cmdCode (p : Config.Params) : DacSel → Byte
  | .bBuf => p.dacCmdBAndBuffer
  | .buf => p.dacCmdBuffer
  | .aUpd => p.dacCmdAUpdateB

/-- `IWL(wl)`: the word-length code, 0 for an unrecognized length (41_codec.md R182). -/
def iwl (wl : Byte) : BitVec 2 :=
  if wl = 16#8 then 0#2
  else if wl = 20#8 then 1#2
  else if wl = 24#8 then 2#2
  else if wl = 32#8 then 3#2
  else 0#2

/-- `SRC(rate)`: the sample-rate code, 0 for any rate but three (41_codec.md R183). -/
def sampleRateCode (rate : BitVec 32) : BitVec 4 :=
  if rate = 8000#32 then 3#4
  else if rate = 32000#32 then 6#4
  else if rate = 96000#32 then 7#4
  else 0#4

/-- `IfaceValue(fmt, wl)`: the interface-format register value (41_codec.md R186). -/
def ifaceValue (p : Config.Params) (fmt wl : Byte) : Bits9 :=
  fmt.setWidth 9 <<< p.fmtShift ||| (iwl wl).setWidth 9 <<< p.iwlShift

/-- `SamplingValue(rate)`: the sampling register value (41_codec.md R187). -/
def samplingValue (p : Config.Params) (rate : BitVec 32) : Bits9 :=
  (sampleRateCode rate).setWidth 9 <<< p.srShift

/-- `VolumeMerge(old, vol, mask)`, `~mask` taken at 9 bits (41_codec.md R188). -/
def volumeMerge (old : Bits9) (vol : Byte) (mask : Bits9) : Bits9 :=
  old &&& ~~~mask ||| vol.setWidth 9 &&& mask

/-- byte0 of a register write: `(zext_8(r) << 1) | zext_8(v[8])` (41_codec.md R184). -/
def regByte0 (r : Bits7) (v : Bits9) : Byte :=
  r.setWidth 8 <<< 1 ||| (v.extractLsb' 8 1).setWidth 8

/-- byte1 of a register write: `v[7:0]` (41_codec.md R184). -/
def regByte1 (v : Bits9) : Byte := v.extractLsb' 0 8

end Sys2Proof.Machine
end

