-- ==== Sys2Proof/Machine/Flags.lean ====
section
/-! DEFINITION. The block has no condition flags and no flags register (10_state.md R34). Its two instantiation flags,
speed and power, make the control byte (R36, R37) that every DAC command byte carries (40_dac.md R143). -/

namespace Sys2Proof.Machine

/-- `controlByte` (10_state.md R37). -/
def controlByte (c : Config.Instantiation) : Byte :=
  (if c.ctrlFast then c.params.dacCtrlFast else 0#8) ||| (if c.ctrlPowerDown then c.params.dacCtrlPowerdown else 0#8)

/-- byte0 of `DacEncode(code, value)`: value bits 11:8, the code and the control byte, ORed (40_dac.md R143). -/
def dacByte0 (c : Config.Instantiation) (code : Byte) (value : BitVec 16) : Byte :=
  (value.extractLsb' 8 4).setWidth 8 ||| code ||| controlByte c

/-- byte1 of `DacEncode(code, value)`: value bits 7:0 (40_dac.md R143). -/
def dacByte1 (value : BitVec 16) : Byte := value.extractLsb' 0 8

end Sys2Proof.Machine
end

