-- ==== Sys2Proof/Machine/Ops.lean ====
section
/-! DEFINITION. The named operations: emitting an event, driving chip-select, the two frames, the set primitive, the
shadow, completing a command, taking a fault or a refusal, and the command port. -/

namespace Sys2Proof.Machine

/-- The outcome type of the machine. -/
abbrev Result := Host.Outcome State Fault Refusal

/-! ## Completing a command, faults and refusals -/

/-- A command completes with a value for the result port (10_state.md R32). -/
def completeWith (v : Option Bits9) (s : State) : Result := .next { s with result := v }

/-- `S.result <- none` at the end of every command but `CODEC_GET` (10_state.md R32). -/
def complete (s : State) : Result := completeWith none s

/-- `raise Fault(reason)`: the fault is recorded and every other field stays as it is (60_exceptions.md R241). There is
no trap entry beyond this and no return from it (R247, R248). -/
def raiseFault (r : FaultReason) (s : State) : Result := .next { s with fault := some r }

/-- `refuse(reason)`: the refusal is recorded and every other field stays as it is (60_exceptions.md R243). -/
def takeRefusal (r : RefuseReason) (s : State) : Result := .next { s with refused := some r }

/-- `RequireBegun`: a DAC write before `DAC_BEGIN` faults before any event (40_dac.md R145). The word a fault carries is
given by the meaning as the encoding of its command (DEDUCED, log entry 16). -/
def requireBegun (w : Word64) (s : State) (body : State → Result) : Result :=
  if s.dac.begun then body s else raiseFault (.dacNotBegun w) s

/-- `RequireCodecBegun`: without a recorded address the command faults before any write; with one, the body gets it
(41_codec.md R185; the `a` of R184). -/
def requireCodecBegun (w : Word64) (s : State) (body : Bits7 → State → Result) : Result :=
  match s.codec.addr with
  | none => raiseFault (.codecNotBegun w) s
  | some a => body a s

/-! ## Events and the DAC unit -/

/-- `emit(e)`: append to the trace (00_scope.md R16, 10_state.md R31). -/
def emit (e : Event) (s : State) : State := { s with trace := s.trace ++ [e] }

/-- `S.dac.cs <- High ; emit(CsHigh(DAC_CS_LINE))`. -/
def raiseCs (s : State) : State :=
  emit (.csHigh s.inst.params.dacCsLine) { s with dac := { s.dac with cs := .high } }

/-- `S.dac.cs <- Low ; emit(CsLow(DAC_CS_LINE))`. -/
def lowerCs (s : State) : State :=
  emit (.csLow s.inst.params.dacCsLine) { s with dac := { s.dac with cs := .low } }

/-- `S.dac.irqInhibit <- true ; emit(IrqOff)`. -/
def inhibitIrq (s : State) : State := emit .irqOff { s with dac := { s.dac with irqInhibit := true } }

/-- `S.dac.irqInhibit <- false ; emit(IrqOn)`. -/
def allowIrq (s : State) : State := emit .irqOn { s with dac := { s.dac with irqInhibit := false } }

/-- `emit(DelayUs(T_SETTLE_US))`. -/
def settle (s : State) : State := emit (.delayUs s.inst.params.tSettleUs) s

/-- The two transfers of a frame, byte0 first (40_dac.md R141, R142). -/
def transfer (b0 b1 : Byte) (s : State) : State := emit (.spiXfer b1) (emit (.spiXfer b0) s)

/-- `DelayedFrame(b0, b1)` (40_dac.md R141). -/
def delayedFrame (b0 b1 : Byte) (s : State) : State :=
  raiseCs (settle (transfer b0 b1 (settle (lowerCs s))))

/-- `FastFrame(b0, b1)` (40_dac.md R142). -/
def fastFrame (b0 b1 : Byte) (s : State) : State :=
  raiseCs (allowIrq (transfer b0 b1 (inhibitIrq (lowerCs s))))

/-- A frame of `DacEncode(code, value)` through either framing (40_dac.md R143, R147 to R150). -/
def sendDac (frame : Byte → Byte → State → State) (code : Byte) (value : BitVec 16) (s : State) : State :=
  frame (dacByte0 s.inst code value) (dacByte1 value) s

/-- The single write, by either framing (40_dac.md R147, R149). -/
def dacWriteOne (frame : Byte → Byte → State → State) (sel : DacSel) (value : BitVec 16) (s : State) : Result :=
  complete (sendDac frame (cmdCode s.inst.params sel) value s)

/-- The dual write, by either framing: buffer frame of B, then A-update-B frame of A (40_dac.md R148, R150). -/
def dacWriteTwo (frame : Byte → Byte → State → State) (va vb : BitVec 16) (s : State) : Result :=
  complete (sendDac frame s.inst.params.dacCmdAUpdateB va (sendDac frame s.inst.params.dacCmdBuffer vb s))

/-! ## The codec unit -/

/-- The guard of the set primitive: cell r is written exactly when r is 0..9 (41_codec.md R184, 10_state.md R51). -/
def writeShadow (sh : Vector Bits9 10) (r : Bits7) (v : Bits9) : Vector Bits9 10 :=
  if h : r.toNat < 10 then sh.set r.toNat v h else sh

/-- `SetReg(r, v)` with the recorded address a: the shadow first, then the bus write, which r outside 0..9 does not
stop (41_codec.md R184). -/
def setReg (a : Bits7) (r : Bits7) (v : Bits9) (s : State) : State :=
  emit (.i2cWrite a (regByte0 r v) (regByte1 v))
    { s with codec := { s.codec with shadow := writeShadow s.codec.shadow r v } }

/-- `S.codec.shadow[i]`, a whole cell (20_memory.md R79). -/
def readShadow (s : State) (i : ShadowIndex) : Bits9 := s.codec.shadow[i]

/-- One side of a volume setter: the read-modify-write of one cell (41_codec.md R188, R194, R195). -/
def mergeVolume (a : Bits7) (i : ShadowIndex) (vol : Byte) (mask : Bits9) (s : State) : State :=
  setReg a i.toReg (volumeMerge (readShadow s i) vol mask) s

/-- `S.codec.addr <- some ADDR` (41_codec.md R190). -/
def recordAddr (a : Bits7) (s : State) : State := { s with codec := { s.codec with addr := some a } }

/-- The first-call part of `CODEC_BEGIN`: bus initialization and startup delay, once (41_codec.md R190, R201). -/
def initBus (s : State) : State :=
  if s.codec.initialized then s
  else
    let s1 := emit (.delayMs s.inst.params.tStartupMs) (emit .i2cInit s)
    { s1 with codec := { s1.codec with initialized := true } }

/-- The ten register writes of `CODEC_BEGIN`, in order (41_codec.md R190). -/
def beginWrites (p : Config.Params) (fmt wl : Byte) (rate : BitVec 32) : List (Bits7 × Bits9) :=
  [(p.regReset, 0#9), (p.regPowerDown.toReg, 0#9), (p.regInterfaceFormat.toReg, ifaceValue p fmt wl),
   (p.regLeftLineIn.toReg, 0#9), (p.regRightLineIn.toReg, 0#9), (p.regLeftHpOut.toReg, 0#9),
   (p.regRightHpOut.toReg, 0#9), (p.regAnalogPath.toReg, p.routeDacOnly), (p.regDigitalPath.toReg, 0#9),
   (p.regSampling.toReg, samplingValue p rate)]

/-- A list of `SetReg` calls, performed in order (41_codec.md R190). -/
def setRegs (a : Bits7) : List (Bits7 × Bits9) → State → State
  | [], s => s
  | (r, v) :: rest, s => setRegs a rest (setReg a r v s)

/-! ## The command port -/

/-- The reason a stopped block takes no step (30_encoding.md R122). -/
def stopReason (s : State) : Option Fault :=
  match s.fault with
  | some r => some (.stoppedByFault r)
  | none => s.refused.map .stoppedByRefusal

/-- The next command word of the host's program, if any is left (10_state.md R33). -/
def fetch (s : State) : Option Word64 := s.host.program[s.host.k]?

/-- The host's position after a command: moved by exactly 1 when it completed, and not when it faulted
(10_state.md R33). -/
def moved (t : State) : State :=
  if t.fault = none then { t with host := { t.host with k := t.host.k + 1 } } else t

/-- A command's outcome with the host's position moved (10_state.md R33). -/
def advance : Result → Result
  | .next t => .next (moved t)
  | .fault f => .fault f
  | .refused r => .refused r

/-- The host gives the block a program, from its first word (10_state.md R33). -/
def State.load (ws : List Word64) (s : State) : State := { s with host := { program := ws, k := 0 } }

/-- The host's next word is `w` (missing earlier positions, which no run reaches, filled with zero words). -/
def presentNext (w : Word64) (s : State) : State :=
  { s with host := { s.host with
      program := s.host.program.take s.host.k ++ List.replicate (s.host.k - s.host.program.length) 0#64
        ++ w :: s.host.program.drop (s.host.k + 1) } }

end Sys2Proof.Machine
end

