-- ==== Sys2Proof/Machine/Codec.lean ====
section
/-! DEFINITION. The meanings of the eight codec commands (41_codec.md R190 to R197). -/

namespace Sys2Proof.Machine

/-- `CODEC_BEGIN` (41_codec.md R190): records the address, initializes the bus on the first call only, then makes the
ten register writes; never faults and never writes `REG_ACTIVE`. -/
def execCodecBegin (addr : Bits7) (fmt wl : Byte) (rate : BitVec 32) (s : State) : Result :=
  complete (setRegs addr (beginWrites s.inst.params fmt wl rate) (initBus (recordAddr addr s)))

/-- `CODEC_RESET` (41_codec.md R191). -/
def execCodecReset (s : State) : Result :=
  requireCodecBegun (encode .codecReset) s fun a s => complete (setReg a s.inst.params.regReset 0#9 s)

/-- `CODEC_SET_ACTIVE` (41_codec.md R192). -/
def execCodecSetActive (s : State) : Result :=
  requireCodecBegun (encode .codecSetActive) s fun a s => complete (setReg a s.inst.params.regActive.toReg 0x001#9 s)

/-- `CODEC_SET_INACTIVE` (41_codec.md R193). -/
def execCodecSetInactive (s : State) : Result :=
  requireCodecBegun (encode .codecSetInactive) s fun a s => complete (setReg a s.inst.params.regActive.toReg 0x000#9 s)

/-- `CODEC_SET_INPUT_VOLUME` (41_codec.md R194): left line input, then right. -/
def execCodecSetInputVolume (vol : Byte) (s : State) : Result :=
  requireCodecBegun (encode (.codecSetInputVolume vol)) s fun a s =>
    complete (mergeVolume a s.inst.params.regRightLineIn vol s.inst.params.inVolMask
      (mergeVolume a s.inst.params.regLeftLineIn vol s.inst.params.inVolMask s))

/-- `CODEC_SET_OUTPUT_VOLUME` (41_codec.md R195): left headphone output, then right. -/
def execCodecSetOutputVolume (vol : Byte) (s : State) : Result :=
  requireCodecBegun (encode (.codecSetOutputVolume vol)) s fun a s =>
    complete (mergeVolume a s.inst.params.regRightHpOut vol s.inst.params.outVolMask
      (mergeVolume a s.inst.params.regLeftHpOut vol s.inst.params.outVolMask s))

/-- `CODEC_SET` (41_codec.md R196): the set primitive on the operands. -/
def execCodecSet (reg : Bits7) (val : Bits9) (s : State) : Result :=
  requireCodecBegun (encode (.codecSet reg val)) s fun a s => complete (setReg a reg val s)

/-- `CODEC_GET` (41_codec.md R197): the shadow cell to the result port, with no event and no fault. -/
def execCodecGet (reg : ShadowIndex) (s : State) : Result := completeWith (some (readShadow s reg)) s

end Sys2Proof.Machine
end

