-- ==== Sys2Proof/Machine/Dac.lean ====
section
/-! DEFINITION. The meanings of the five DAC commands (40_dac.md R146 to R150). -/

namespace Sys2Proof.Machine

/-- `DAC_BEGIN` (40_dac.md R146): three events, chip-select High, `begun`; legal again at any time. -/
def execDacBegin (s : State) : Result :=
  let s1 := emit (.spiConfig .msbFirst s.inst.params.spiMode s.inst.params.spiClockDivider) s
  let s2 := raiseCs (emit (.csOutput s.inst.params.dacCsLine) s1)
  complete { s2 with dac := { s2.dac with begun := true } }

/-- `DAC_WRITE_DATA` (40_dac.md R147): one delayed frame. -/
def execDacWriteData (sel : DacSel) (value : BitVec 16) (s : State) : Result :=
  requireBegun (encode (.dacWriteData sel value)) s (dacWriteOne delayedFrame sel value)

/-- `DAC_WRITE` (40_dac.md R148): two delayed frames, B staged first. -/
def execDacWrite (va vb : BitVec 16) (s : State) : Result :=
  requireBegun (encode (.dacWrite va vb)) s (dacWriteTwo delayedFrame va vb)

/-- `DAC_WRITE_DATA_FAST` (40_dac.md R149): one fast frame. -/
def execDacWriteDataFast (sel : DacSel) (value : BitVec 16) (s : State) : Result :=
  requireBegun (encode (.dacWriteDataFast sel value)) s (dacWriteOne fastFrame sel value)

/-- `DAC_WRITE_FAST` (40_dac.md R150): two fast frames, B staged first. -/
def execDacWriteFast (va vb : BitVec 16) (s : State) : Result :=
  requireBegun (encode (.dacWriteFast va vb)) s (dacWriteTwo fastFrame va vb)

end Sys2Proof.Machine
end

