-- ==== Sys2Proof/Machine/Dispatch.lean ====
section
/-! DEFINITION. One arm per command of the opcode map (30_encoding.md R104). -/

namespace Sys2Proof.Machine

def exec (i : Instr) (s : State) : Host.Outcome State Fault Refusal :=
  match i with
  | .dacBegin => Sys2Proof.Machine.execDacBegin s
  | .dacWriteData sel value => Sys2Proof.Machine.execDacWriteData sel value s
  | .dacWrite va vb => Sys2Proof.Machine.execDacWrite va vb s
  | .dacWriteDataFast sel value => Sys2Proof.Machine.execDacWriteDataFast sel value s
  | .dacWriteFast va vb => Sys2Proof.Machine.execDacWriteFast va vb s
  | .codecBegin addr fmt wl rate => Sys2Proof.Machine.execCodecBegin addr fmt wl rate s
  | .codecReset => Sys2Proof.Machine.execCodecReset s
  | .codecSetActive => Sys2Proof.Machine.execCodecSetActive s
  | .codecSetInactive => Sys2Proof.Machine.execCodecSetInactive s
  | .codecSetInputVolume vol => Sys2Proof.Machine.execCodecSetInputVolume vol s
  | .codecSetOutputVolume vol => Sys2Proof.Machine.execCodecSetOutputVolume vol s
  | .codecSet reg val => Sys2Proof.Machine.execCodecSet reg val s
  | .codecGet reg => Sys2Proof.Machine.execCodecGet reg s

end Sys2Proof.Machine
end

