-- ==== Sys2Proof/Machine/Step.lean ====
section
/-! DEFINITION. One step: the block takes the host's next command word, decodes it, and refuses it or executes it to
completion (20_memory.md R90, 60_exceptions.md R246). A stopped block takes no step (30_encoding.md R122). -/

namespace Sys2Proof.Machine

/-- One step of the block. With no word left the block waits (70_reset_and_hazards.md R272; DESIGN CHOICE, log
entry 6). -/
def step (s : State) : Host.Outcome State Fault Refusal :=
  match stopReason s with
  | some f => .fault f
  | none =>
    match fetch s with
    | none => .next s
    | some w =>
      match decode s.inst.params w with
      | .error r => takeRefusal r s
      | .ok i => advance (exec i s)

/-- The state in which the host's next command word is `w`, numbered as spec/opcode_table.json numbers it (bit 0 the
least significant bit of the one 64-bit word; bits at or above `nbits` are 0). It stands for the host presenting the
word (log entry 5). -/
def State.withFetchWord (s : State) (nbits w : Nat) : State :=
  presentNext (BitVec.ofNat 64 (w % 2 ^ nbits)) s

end Sys2Proof.Machine
end

