-- ==== Sys2Proof/Machine/Assembler.lean ====
section
/-! DEFINITION. The assembly text of 30_encoding.md R125: one command per line, a mnemonic and comma-separated operands,
decimal or `0x` numbers, selector names, `;` comments. There are no pseudo-instructions (R126). It yields words; decode
alone says which of them are legal (R120). -/

namespace Sys2Proof.Machine

/-- The mnemonic column of 30_encoding.md R125. -/
def asmName : Opcode → String
  | .dacBegin => "dac.begin"
  | .dacWriteData => "dac.wd"
  | .dacWrite => "dac.write"
  | .dacWriteDataFast => "dac.wdf"
  | .dacWriteFast => "dac.writef"
  | .codecBegin => "cdc.begin"
  | .codecReset => "cdc.reset"
  | .codecSetActive => "cdc.active"
  | .codecSetInactive => "cdc.inactive"
  | .codecSetInputVolume => "cdc.invol"
  | .codecSetOutputVolume => "cdc.outvol"
  | .codecSet => "cdc.set"
  | .codecGet => "cdc.get"

/-- The command of a mnemonic (30_encoding.md R125). -/
def asmOpcode (name : List Char) : Option Opcode := Opcode.all.find? fun o => (asmName o).toList == name

/-- The selector names of `dac.wd` and `dac.wdf` (30_encoding.md R125). -/
def asmSel (name : List Char) : Option Word64 :=
  if name == "bbuf".toList then some 0#64
  else if name == "buf".toList then some 1#64
  else if name == "aupd".toList then some 2#64
  else none

/-- Blanks that separate words (DESIGN CHOICE, log entry 11: R125 names none). -/
def asmBlank (c : Char) : Bool := c == ' ' || c == '\t'

/-- A decimal digit's value. -/
def asmDecDigit (c : Char) : Option Nat :=
  if '0' ≤ c ∧ c ≤ '9' then some (c.toNat - '0'.toNat) else none

/-- A hexadecimal digit's value, of either case (log entry 11). -/
def asmHexDigit (c : Char) : Option Nat :=
  if '0' ≤ c ∧ c ≤ '9' then some (c.toNat - '0'.toNat)
  else if 'a' ≤ c ∧ c ≤ 'f' then some (c.toNat - 'a'.toNat + 10)
  else if 'A' ≤ c ∧ c ≤ 'F' then some (c.toNat - 'A'.toNat + 10)
  else none

/-- Digits of a base, most significant first, from the value read so far. -/
def asmDigits (digit : Char → Option Nat) (base : Nat) : Nat → List Char → Option Nat
  | acc, [] => some acc
  | acc, c :: cs =>
    match digit c with
    | some d => asmDigits digit base (acc * base + d) cs
    | none => none

/-- A number, decimal or `0x` hexadecimal (30_encoding.md R125). -/
def asmNumber : List Char → Option Nat
  | [] => none
  | '0' :: 'x' :: c :: cs => asmDigits asmHexDigit 16 0 (c :: cs)
  | c :: cs => asmDigits asmDecDigit 10 0 (c :: cs)

/-- A number that fits a field of n bits (DESIGN CHOICE, log entry 11: a wider one is no line of assembly). -/
def asmField (n : Nat) (cs : List Char) : Option Word64 :=
  match asmNumber cs with
  | some v => if v < 2 ^ n then some (BitVec.ofNat 64 v) else none
  | none => none

/-- Blanks off both ends. -/
def asmTrim (cs : List Char) : List Char := ((cs.dropWhile asmBlank).reverse.dropWhile asmBlank).reverse

/-- The text cut at its commas. -/
def asmSplit : List Char → List (List Char)
  | [] => [[]]
  | c :: cs =>
    if c == ',' then [] :: asmSplit cs
    else
      match asmSplit cs with
      | [] => [[c]]
      | w :: ws => (c :: w) :: ws

/-- The operands of a line: none, or comma-separated (30_encoding.md R125). -/
def asmOperands (cs : List Char) : List (List Char) :=
  if asmTrim cs = [] then [] else (asmSplit cs).map asmTrim

/-- The word column of 30_encoding.md R125. -/
def asmWord (o : Opcode) (args : List (List Char)) : Option Word64 :=
  match o, args with
  | .dacBegin, [] => some o.row
  | .dacWriteData, [sel, value] => do
    let s ← asmSel sel
    let v ← asmField 16 value
    pure (o.row ||| s <<< 16 ||| v)
  | .dacWrite, [valueA, valueB] => do
    let a ← asmField 16 valueA
    let b ← asmField 16 valueB
    pure (o.row ||| a <<< 16 ||| b)
  | .dacWriteDataFast, [sel, value] => do
    let s ← asmSel sel
    let v ← asmField 16 value
    pure (o.row ||| s <<< 16 ||| v)
  | .dacWriteFast, [valueA, valueB] => do
    let a ← asmField 16 valueA
    let b ← asmField 16 valueB
    pure (o.row ||| a <<< 16 ||| b)
  | .codecBegin, [addr, rate, wordlen, fmt] => do
    let a ← asmField 8 addr
    let r ← asmField 32 rate
    let l ← asmField 8 wordlen
    let f ← asmField 8 fmt
    pure (o.row ||| a <<< 48 ||| f <<< 40 ||| l <<< 32 ||| r)
  | .codecReset, [] => some o.row
  | .codecSetActive, [] => some o.row
  | .codecSetInactive, [] => some o.row
  | .codecSetInputVolume, [v] => do
    let n ← asmField 8 v
    pure (o.row ||| n)
  | .codecSetOutputVolume, [v] => do
    let n ← asmField 8 v
    pure (o.row ||| n)
  | .codecSet, [reg, val] => do
    let r ← asmField 8 reg
    let v ← asmField 16 val
    pure (o.row ||| r <<< 16 ||| v)
  | .codecGet, [reg] => do
    let r ← asmField 8 reg
    pure (o.row ||| r <<< 16)
  | _, _ => none

/-- One line: its words (none for a line of comment or blanks), or `none` when it is not assembly. -/
def assembleLine (line : String) : Option (List Word64) :=
  let text := asmTrim (line.toList.takeWhile (· != ';'))
  if text = [] then some []
  else
    match asmOpcode (text.takeWhile fun c => !asmBlank c) with
    | none => none
    | some o => (asmWord o (asmOperands (text.dropWhile fun c => !asmBlank c))).map fun w => [w]

/-- A host program from its lines, in order (30_encoding.md R125, 10_state.md R33). -/
def assemble : List String → Option (List Word64)
  | [] => some []
  | l :: ls => do
    let w ← assembleLine l
    let ws ← assemble ls
    pure (w ++ ws)

end Sys2Proof.Machine
end

