-- ==== Sys2Proof/Machine/Observer.lean ====
section
/-! DEFINITION. The reference observers of the external chips (20_memory.md R80 to R87) and the wire views of what the
block sends (R73 to R75). They are no part of the block's state and read only its trace. An unknown chip value (a free
draw of the spec) is `none`; an acknowledgement is a draw the observer takes as an argument (log entry 8). -/

namespace Sys2Proof.Machine

/-! ## Wire views -/

/-- The 16-bit word of a two-byte transfer, byte0 in bits 15:8 (20_memory.md R74, R75). -/
def wireWord (b0 b1 : Byte) : BitVec 16 := b0 ++ b1

/-- The bits of a word in the order SPI sends them: bit 15 down to bit 0 (20_memory.md R74). -/
def wireBits (w : BitVec 16) : List Bool := (List.range 16).map fun n => w.getLsbD (15 - n)

/-- The address byte the I2C collaborator forms, `{a, 0}`; no rule depends on it (20_memory.md R73, PRESUMED by the
spec, log entry 3). -/
def i2cAddressByte (a : Bits7) : Byte := a ++ 0#1

/-! ## The DAC chip -/

/-- Where the DAC observer stands in a chip-select window (20_memory.md R81). -/
inductive Window where
  /-- Chip-select is not asserted. -/
  | closed
  /-- Asserted, no byte yet. -/
  | selected
  /-- Asserted, one byte. -/
  | oneByte (b0 : Byte)
  /-- Asserted, exactly two bytes. -/
  | twoBytes (b0 b1 : Byte)
  /-- Asserted, and no frame of R81 any more. -/
  | malformed
  deriving DecidableEq, Repr

/-- The DAC observer (20_memory.md R80): two outputs, the staging buffer, the control bits, each unknown until
written. -/
structure DacChip where
  outA : Option Bits12
  outB : Option Bits12
  buf : Option Bits12
  ctl : Option Byte
  window : Window
  deriving DecidableEq, Repr

/-- The DAC chip at power-up: every value unknown (20_memory.md R80). -/
def DacChip.powerUp : DacChip := { outA := none, outB := none, buf := none, ctl := none, window := .closed }

/-- 20_memory.md R85: the outputs and the buffer become unknown. -/
def DacChip.forget (o : DacChip) : DacChip := { o with outA := none, outB := none, buf := none }

/-- The effect of a recognised frame, by its code (20_memory.md R81 to R85). `ctl` is recorded and given no further
meaning (R86). -/
def DacChip.frame (p : Config.Params) (b0 b1 : Byte) (o : DacChip) : DacChip :=
  let val : Bits12 := (wireWord b0 b1).extractLsb' 0 12
  let code := b0 &&& p.dacCmdField
  let o := { o with ctl := some (b0 &&& (p.dacCtrlFast ||| p.dacCtrlPowerdown)) }
  if code = p.dacCmdBAndBuffer then { o with outB := some val, buf := some val }
  else if code = p.dacCmdBuffer then { o with buf := some val }
  else if code = p.dacCmdAUpdateB then { o with outB := o.buf, outA := some val }
  else o.forget

/-- A delay or interrupt event inside a window may stand before or after the two transfers, not between them
(20_memory.md R81; DEDUCED, log entry 14). -/
def Window.pause : Window → Window
  | .closed => .closed
  | .selected => .selected
  | .oneByte _ => .malformed
  | .twoBytes b0 b1 => .twoBytes b0 b1
  | .malformed => .malformed

/-- Any other DAC event inside a window breaks the frame (20_memory.md R81; DEDUCED, log entry 14). -/
def Window.spoil : Window → Window
  | .closed => .closed
  | _ => .malformed

/-- A transfer inside a window is its next byte; with no chip selected it reaches no chip (20_memory.md R81, R85). -/
def Window.byte (b : Byte) : Window → Window
  | .closed => .closed
  | .selected => .oneByte b
  | .oneByte b0 => .twoBytes b0 b
  | .twoBytes _ _ => .malformed
  | .malformed => .malformed

/-- Asserting the line opens a window; asserting it inside one is no frame of R81 (DEDUCED, log entry 14). -/
def Window.open : Window → Window
  | .closed => .selected
  | _ => .malformed

/-- The end of a window: a frame of exactly two bytes has its effect (R81 to R84), any other window makes the outputs and
the buffer unknown (R85), and outside a window nothing happens. -/
def DacChip.close (p : Config.Params) (o : DacChip) : DacChip :=
  let shut := { o with window := .closed }
  match o.window with
  | .closed => shut
  | .twoBytes b0 b1 => shut.frame p b0 b1
  | .selected => shut.forget
  | .oneByte _ => shut.forget
  | .malformed => shut.forget

/-- What the DAC observer makes of one event (20_memory.md R81 to R85). Events of the codec, and chip-select events of
another line, are not its own (DEDUCED, log entry 14). -/
def DacChip.sees (p : Config.Params) (o : DacChip) : Event → DacChip
  | .spiConfig _ _ _ => { o with window := o.window.spoil }
  | .csOutput l => if l = p.dacCsLine then { o with window := o.window.spoil } else o
  | .csHigh l => if l = p.dacCsLine then o.close p else o
  | .csLow l => if l = p.dacCsLine then { o with window := o.window.open } else o
  | .delayUs _ => { o with window := o.window.pause }
  | .spiXfer b => { o with window := o.window.byte b }
  | .irqOff => { o with window := o.window.pause }
  | .irqOn => { o with window := o.window.pause }
  | .i2cInit => o
  | .delayMs _ => o
  | .i2cWrite _ _ _ => o

/-- The DAC chip after a sequence of events (20_memory.md R80 to R85). -/
def DacChip.after (p : Config.Params) (o : DacChip) (es : List Event) : DacChip := es.foldl (DacChip.sees p) o

/-! ## The codec chip -/

/-- The codec observer (20_memory.md R87): the chip's 128 registers, each unknown until written, and how many `I2cWrite`
events have passed, which numbers the acknowledgement draws. -/
structure CodecChip where
  dev : Vector (Option Bits9) 128
  writes : Nat
  deriving DecidableEq, Repr

/-- The codec chip at power-up: every register unknown (20_memory.md R87). -/
def CodecChip.powerUp : CodecChip := { dev := Vector.replicate 128 none, writes := 0 }

/-- An acknowledged write at the chip's address: register `b0[7:1]` takes `{b0[0], b1}`; a write to `REG_RESET` makes
every register unknown (20_memory.md R87). -/
def CodecChip.latch (p : Config.Params) (b0 b1 : Byte) (c : CodecChip) : CodecChip :=
  let r : Bits7 := b0.extractLsb' 1 7
  let v : Bits9 := b0.extractLsb' 0 1 ++ b1
  if r = p.regReset then { c with dev := Vector.replicate 128 none }
  else { c with dev := c.dev.set r.toNat (some v) r.isLt }

/-- What the codec observer with the strap address `strap` makes of one event, `ack n` being the acknowledgement of the
n-th `I2cWrite` (20_memory.md R87; 92_eei_decisions.md D30). -/
def CodecChip.sees (p : Config.Params) (strap : Bits7) (ack : Nat → Bool) (c : CodecChip) : Event → CodecChip
  | .i2cWrite a b0 b1 =>
    let counted := { c with writes := c.writes + 1 }
    if a = strap ∧ ack c.writes = true then counted.latch p b0 b1 else counted
  | .spiConfig _ _ _ => c
  | .csOutput _ => c
  | .csHigh _ => c
  | .csLow _ => c
  | .delayUs _ => c
  | .spiXfer _ => c
  | .irqOff => c
  | .irqOn => c
  | .i2cInit => c
  | .delayMs _ => c

/-- The codec chip after a sequence of events (20_memory.md R87). -/
def CodecChip.after (p : Config.Params) (strap : Bits7) (ack : Nat → Bool) (c : CodecChip) (es : List Event) : CodecChip :=
  es.foldl (CodecChip.sees p strap ack) c

/-- The chip's register r (20_memory.md R87). -/
def CodecChip.reg (c : CodecChip) (r : Bits7) : Option Bits9 := c.dev[r.toNat]'r.isLt

end Sys2Proof.Machine
end

