-- ==== Sys2Proof/Safety.lean ====
section
/-! DEFINITION. What counts as a safe state: the properties of the state between two commands and of the trace that the
spec claims for the whole machine, in the terms the statements use. -/

namespace Sys2Proof.Safety

open Sys2Proof.Machine

/-- The block takes commands: nothing has stopped it (30_encoding.md R122). -/
def Live (s : State) : Prop := s.fault = none ∧ s.refused = none

/-- Between two commands chip-select is never asserted and no interrupt is held off; the line is driven High exactly from
the first `DAC_BEGIN` on (10_state.md R38, R39, R40). -/
def DacAtRest (s : State) : Prop :=
  s.dac.irqInhibit = false ∧ s.dac.cs = (if s.dac.begun then .high else .undriven)

/-- An address is recorded exactly when the bus has been initialized (10_state.md R47). -/
def AddrMatchesInit (s : State) : Prop := s.codec.addr.isSome = s.codec.initialized

/-- An event that is one startup delay. -/
def isDelayMs : Event → Bool
  | .delayMs _ => true
  | .spiConfig _ _ _ => false
  | .csOutput _ => false
  | .csHigh _ => false
  | .csLow _ => false
  | .delayUs _ => false
  | .spiXfer _ => false
  | .irqOff => false
  | .irqOn => false
  | .i2cInit => false
  | .i2cWrite _ _ _ => false

/-- The trace holds exactly one bus initialization and one startup delay once a `CODEC_BEGIN` has run, and none before
(41_codec.md R201). -/
def OneBusInit (s : State) : Prop :=
  s.trace.count .i2cInit = (if s.codec.initialized then 1 else 0) ∧
  s.trace.countP isDelayMs = (if s.codec.initialized then 1 else 0)

/-- Every I2C write goes to one of the two strap addresses, and so does the next (20_memory.md R77 (c)). -/
def StrapAddressesOnly (s : State) : Prop :=
  (∀ a, s.codec.addr = some a → addrLegal s.inst.params a = true) ∧
  (∀ a b0 b1, Event.i2cWrite a b0 b1 ∈ s.trace → addrLegal s.inst.params a = true)

/-- Where a trace stands in the framing of 40_dac.md R152: outside a window, or inside a delayed or a fast frame. -/
inductive FramePhase where
  | idle | asserted
  | delayedNone | delayedOne | delayedTwo | delayedSettled
  | fastNone | fastOne | fastTwo | fastReleased
  deriving DecidableEq, Repr

/-- The events the framing of 40_dac.md R152 allows: outside a window the events of `DAC_BEGIN` and of the codec;
inside, one settling delay, two transfers, one settling delay, or interrupts off, two transfers, interrupts on. -/
def FramePhase.next (p : Config.Params) : FramePhase → Event → Option FramePhase
  | .idle, .csLow l => if l = p.dacCsLine then some .asserted else none
  | .idle, .csHigh l => if l = p.dacCsLine then some .idle else none
  | .idle, .csOutput l => if l = p.dacCsLine then some .idle else none
  | .idle, .spiConfig _ _ _ => some .idle
  | .idle, .i2cInit => some .idle
  | .idle, .delayMs _ => some .idle
  | .idle, .i2cWrite _ _ _ => some .idle
  | .asserted, .delayUs n => if n = p.tSettleUs then some .delayedNone else none
  | .delayedNone, .spiXfer _ => some .delayedOne
  | .delayedOne, .spiXfer _ => some .delayedTwo
  | .delayedTwo, .delayUs n => if n = p.tSettleUs then some .delayedSettled else none
  | .delayedSettled, .csHigh l => if l = p.dacCsLine then some .idle else none
  | .asserted, .irqOff => some .fastNone
  | .fastNone, .spiXfer _ => some .fastOne
  | .fastOne, .spiXfer _ => some .fastTwo
  | .fastTwo, .irqOn => some .fastReleased
  | .fastReleased, .csHigh l => if l = p.dacCsLine then some .idle else none
  | _, _ => none

/-- The trace consists of complete frames and of events outside windows (40_dac.md R152). -/
def WellFramed (s : State) : Prop :=
  s.trace.foldlM (FramePhase.next s.inst.params) .idle = some .idle

/-- Every value of the DAC chip is known. -/
def DacChipKnown (o : DacChip) : Prop := o.outA.isSome ∧ o.outB.isSome ∧ o.buf.isSome

/-- Watched from any chip state with no window open, the trace ends with no window open, and at no point of it has a
known chip become unknown: no window of the trace is one of 20_memory.md R85. -/
def DacChipUnderstood (s : State) : Prop :=
  ∀ o : DacChip, o.window = .closed →
    (DacChip.after s.inst.params o s.trace).window = .closed ∧
    (DacChipKnown o → ∀ n : Nat, DacChipKnown (DacChip.after s.inst.params o (s.trace.take n)))

/-- The codec chip at `strap` after the whole trace, every write acknowledged (20_memory.md R87). -/
def ackedChip (strap : Bits7) (s : State) : CodecChip :=
  CodecChip.after s.inst.params strap (fun _ => true) .powerUp s.trace

/-- While every write went to the chip at `strap` and was acknowledged, each shadowed register the chip knows
holds the shadow's value (20_memory.md R89). -/
def ShadowMirrorsChip (strap : Bits7) (s : State) : Prop :=
  (∀ a b0 b1, Event.i2cWrite a b0 b1 ∈ s.trace → a = strap) →
  ∀ i : ShadowIndex,
    (ackedChip strap s).reg i.toReg = none ∨ (ackedChip strap s).reg i.toReg = some s.codec.shadow[i]

/-- The register a register write goes to, if the event is one (20_memory.md R75, R87). -/
def writtenReg : Event → Option Bits7
  | .i2cWrite _ b0 _ => some (b0.extractLsb' 1 7)
  | .spiConfig _ _ _ => none
  | .csOutput _ => none
  | .csHigh _ => none
  | .csLow _ => none
  | .delayUs _ => none
  | .spiXfer _ => none
  | .irqOff => none
  | .irqOn => none
  | .i2cInit => none
  | .delayMs _ => none

/-- For the chip at `strap` and any choice of acknowledgements: after an acknowledged write to register i of the chip, and
while no later write goes to i or to `REG_RESET`, the chip is known to hold in i what the shadow holds
(20_memory.md R89). The other writes of the trace may go anywhere and be acknowledged or not. -/
def AckedWriteIsMirrored (strap : Bits7) (ack : Nat → Bool) (s : State) : Prop :=
  ∀ (i : ShadowIndex) (before later : List Event) (b0 b1 : Byte),
    s.trace = before ++ .i2cWrite strap b0 b1 :: later →
    b0.extractLsb' 1 7 = i.toReg → i.toReg ≠ s.inst.params.regReset →
    ack (before.countP fun e => (writtenReg e).isSome) = true →
    (∀ e ∈ later, writtenReg e ≠ some i.toReg ∧ writtenReg e ≠ some s.inst.params.regReset) →
    (CodecChip.after s.inst.params strap ack .powerUp s.trace).reg i.toReg = some s.codec.shadow[i]

/-- The value a register write carries to register i, if the event is one (20_memory.md R75). -/
def sentTo (i : ShadowIndex) : Event → Option Bits9
  | .i2cWrite _ b0 b1 => if b0.extractLsb' 1 7 = i.toReg then some (b0.extractLsb' 0 1 ++ b1) else none
  | .spiConfig _ _ _ => none
  | .csOutput _ => none
  | .csHigh _ => none
  | .csLow _ => none
  | .delayUs _ => none
  | .spiXfer _ => none
  | .irqOff => none
  | .irqOn => none
  | .i2cInit => none
  | .delayMs _ => none

/-- The value last sent to register i, or 0 if none was sent (10_state.md R53). -/
def lastSent (i : ShadowIndex) (es : List Event) : Bits9 := ((es.filterMap (sentTo i)).getLast?).getD 0#9

/-- Every shadow cell is the value last sent to its register since reset, or 0 (10_state.md R50, R53). -/
def ShadowIsLastSent (s : State) : Prop := ∀ i : ShadowIndex, s.codec.shadow[i] = lastSent i s.trace

/-- The byte of a transfer. -/
def spiByte : Event → Option Byte
  | .spiXfer b => some b
  | .spiConfig _ _ _ => none
  | .csOutput _ => none
  | .csHigh _ => none
  | .csLow _ => none
  | .delayUs _ => none
  | .irqOff => none
  | .irqOn => none
  | .i2cInit => none
  | .delayMs _ => none
  | .i2cWrite _ _ _ => none

/-- At most one of fault and refusal is recorded (60_exceptions.md R246). -/
def OneStopReason (s : State) : Prop := s.fault = none ∨ s.refused = none

/-- The host's position is inside its program or at its end (10_state.md R33). -/
def PositionInProgram (s : State) : Prop := s.host.k ≤ s.host.program.length

end Sys2Proof.Safety
end

