-- ==== Sys2Proof/Certificates/Slice0/Obligations.lean ====
section
/-! DEFINITION. The statements for the provers, each read off a numbered rule of the spec. Each docstring cites the rule. -/

open Sys2Proof Sys2Proof.Machine Sys2Proof.Safety

/-! ## Reset and instantiation -/

/-- 70_reset_and_hazards.md R270: the values reset leaves, for every instantiation. -/
def Obligations.ResetLeavesSpecValues : Prop :=
  (∀ c : Config.Instantiation,
    (State.boot c).inst = c ∧
    (State.boot c).dac = { begun := false, cs := .undriven, irqInhibit := false } ∧
    (State.boot c).codec.initialized = false ∧ (State.boot c).codec.addr = none ∧
    (∀ i : ShadowIndex, (State.boot c).codec.shadow[i] = 0x000#9) ∧
    (State.boot c).trace = [] ∧ (State.boot c).result = none ∧ (State.boot c).fault = none ∧
    (State.boot c).refused = none ∧ (State.boot c).host.k = 0) ∧
  State.reset = State.boot { params := Config.defaults, ctrlFast := false, ctrlPowerDown := false }

/-- 60_exceptions.md R245: a parameter set that breaks R11, R12 or R13 has no machine; a legal one boots, with the flags
given, and both false when omitted (10_state.md R36). -/
def Obligations.BrokenParametersAreRefused : Prop :=
  (∀ (p : Config.Params) (f d : Bool),
    (¬ Config.FitsR11 p ∨ ¬ Config.FitsR12 p ∨ ¬ Config.FitsR13 p → State.instantiate p f d = none) ∧
    (Config.Legal p →
      State.instantiate p f d = some (State.boot { params := p, ctrlFast := f, ctrlPowerDown := d }) ∧
      State.instantiate p = some (State.boot { params := p, ctrlFast := false, ctrlPowerDown := false }))) ∧
  Config.Legal Config.defaults

/-- 10_state.md R37: the control byte, its four values with the default parameters, and that it is ORed into the command
byte of every frame. -/
def Obligations.ControlByteFromFlags : Prop :=
  (∀ p : Config.Params,
    controlByte { params := p, ctrlFast := false, ctrlPowerDown := false } = 0x00#8 ∧
    controlByte { params := p, ctrlFast := true, ctrlPowerDown := false } = p.dacCtrlFast ∧
    controlByte { params := p, ctrlFast := false, ctrlPowerDown := true } = p.dacCtrlPowerdown ∧
    controlByte { params := p, ctrlFast := true, ctrlPowerDown := true } = p.dacCtrlFast ||| p.dacCtrlPowerdown) ∧
  controlByte { params := Config.defaults, ctrlFast := true, ctrlPowerDown := false } = 0x40#8 ∧
  controlByte { params := Config.defaults, ctrlFast := false, ctrlPowerDown := true } = 0x20#8 ∧
  controlByte { params := Config.defaults, ctrlFast := true, ctrlPowerDown := true } = 0x60#8 ∧
  ∀ (c : Config.Instantiation) (code : Byte) (v : BitVec 16),
    dacByte0 c code v = dacByte0 { params := c.params } code v ||| controlByte c

/-! ## Encoding and decode -/

/-- 30_encoding.md R120: decoding the word of a well-formed command gives the command back, every operand at every legal
value, under every parameter set. -/
def Obligations.DecodeOfEncodedCommand : Prop :=
  ∀ (p : Config.Params) (i : Instr), i.wf p = true → decode p (encode i) = .ok i

/-- 30_encoding.md R120, R103: a word that decodes is the word of the command it decodes to, and that command is well
formed; so no two words decode to one command. -/
def Obligations.EncodeOfDecodedWord : Prop :=
  ∀ (p : Config.Params) (w : Word64) (i : Instr), decode p w = .ok i → encode i = w ∧ i.wf p = true

/-- 30_encoding.md R105: exactly the unassigned opcodes are refused as unknown; the all-zero word is one. -/
def Obligations.UnassignedOpcodesRefused : Prop :=
  (∀ (p : Config.Params) (w : Word64),
    (opByte w = 0x00#8 ∨ (0x06#8 ≤ opByte w ∧ opByte w ≤ 0x0F#8) ∨ 0x18#8 ≤ opByte w) ↔
      decode p w = .error (.unknownOpcode w)) ∧
  ∀ p : Config.Params, decode p 0#64 = .error (.unknownOpcode 0#64)

/-- 30_encoding.md R103: a word with an assigned opcode and a reserved bit set is refused, and a word passes the first two
checks of decode exactly when it selects a row of the opcode map. -/
def Obligations.ReservedBitsRefused : Prop :=
  (∀ (p : Config.Params) (w : Word64) (o : Opcode), opByte w = o.code →
    (w &&& o.format.reserved ≠ 0#64 ↔ decode p w = .error (.reservedBitSet w))) ∧
  (∀ (p : Config.Params) (w : Word64),
    (∃ o : Opcode, w &&& o.rowMask = o.row) ↔
      (decode p w ≠ .error (.unknownOpcode w) ∧ decode p w ≠ .error (.reservedBitSet w)))

/-- 30_encoding.md R106: SEL 0, 1, 2 are the three selectors with their command codes, in both single writes; SEL 3 is
refused. -/
def Obligations.SelectorWordsDecode : Prop :=
  ∀ (p : Config.Params) (v : BitVec 16),
    (∀ op : Word64, op = 0x02#64 ∨ op = 0x04#64 →
      decode p (op <<< 56 ||| 3#64 <<< 16 ||| v.setWidth 64) =
        .error (.selReserved (op <<< 56 ||| 3#64 <<< 16 ||| v.setWidth 64))) ∧
    decode p (0x02#64 <<< 56 ||| v.setWidth 64) = .ok (.dacWriteData .bBuf v) ∧
    decode p (0x02#64 <<< 56 ||| 1#64 <<< 16 ||| v.setWidth 64) = .ok (.dacWriteData .buf v) ∧
    decode p (0x02#64 <<< 56 ||| 2#64 <<< 16 ||| v.setWidth 64) = .ok (.dacWriteData .aUpd v) ∧
    decode p (0x04#64 <<< 56 ||| v.setWidth 64) = .ok (.dacWriteDataFast .bBuf v) ∧
    decode p (0x04#64 <<< 56 ||| 1#64 <<< 16 ||| v.setWidth 64) = .ok (.dacWriteDataFast .buf v) ∧
    decode p (0x04#64 <<< 56 ||| 2#64 <<< 16 ||| v.setWidth 64) = .ok (.dacWriteDataFast .aUpd v) ∧
    cmdCode p .bBuf = p.dacCmdBAndBuffer ∧ cmdCode p .buf = p.dacCmdBuffer ∧ cmdCode p .aUpd = p.dacCmdAUpdateB

/-- 30_encoding.md R108, R109, R120: a SET word with REG above 127 is refused for REG whatever VAL is, then VAL above 511
is refused, else it is the command with those operands. -/
def Obligations.SetWordsDecode : Prop :=
  ∀ (p : Config.Params) (reg : Byte) (val : BitVec 16),
    let w : Word64 := 0x16#64 <<< 56 ||| reg.setWidth 64 <<< 16 ||| val.setWidth 64
    (127 < reg.toNat → decode p w = .error (.registerRange w)) ∧
    (reg.toNat ≤ 127 → 511 < val.toNat → decode p w = .error (.valueRange w)) ∧
    (reg.toNat ≤ 127 → val.toNat ≤ 511 → decode p w = .ok (.codecSet (reg.setWidth 7) (val.setWidth 9)))

/-- 30_encoding.md R110: an input volume is legal up to 31 and an output volume up to 63; a larger one is refused. -/
def Obligations.VolumeWordsDecode : Prop :=
  ∀ (p : Config.Params) (vol : Byte),
    let wIn : Word64 := 0x14#64 <<< 56 ||| vol.setWidth 64
    let wOut : Word64 := 0x15#64 <<< 56 ||| vol.setWidth 64
    (vol.toNat ≤ 31 → decode p wIn = .ok (.codecSetInputVolume vol)) ∧
    (31 < vol.toNat → decode p wIn = .error (.volumeRange wIn)) ∧
    (vol.toNat ≤ 63 → decode p wOut = .ok (.codecSetOutputVolume vol)) ∧
    (63 < vol.toNat → decode p wOut = .error (.volumeRange wOut))

/-- 30_encoding.md R111: a GET word names one of the ten cells, or is refused. -/
def Obligations.GetWordsDecode : Prop :=
  ∀ (p : Config.Params) (reg : Byte),
    let w : Word64 := 0x17#64 <<< 56 ||| reg.setWidth 64 <<< 16
    (∀ h : reg.toNat < 10, decode p w = .ok (.codecGet ⟨reg.toNat, h⟩)) ∧
    (10 ≤ reg.toNat → decode p w = .error (.getRange w))

/-- 30_encoding.md R113, R114, R115, R116, R120: in a CB word ADDR is checked first, then FMT; every WL and every RATE is
legal. -/
def Obligations.BeginWordsDecode : Prop :=
  ∀ (p : Config.Params) (addr fmt wl : Byte) (rate : BitVec 32),
    let w : Word64 := 0x10#64 <<< 56 ||| addr.setWidth 64 <<< 48 ||| fmt.setWidth 64 <<< 40 |||
      wl.setWidth 64 <<< 32 ||| rate.setWidth 64
    let strap : Prop := addr = p.codecAddrLow.setWidth 8 ∨ addr = p.codecAddrHigh.setWidth 8
    (¬ strap → decode p w = .error (.addressRange w)) ∧
    (strap → 2 ^ p.fmtBits ≤ fmt.toNat → decode p w = .error (.formatRange w)) ∧
    (strap → fmt.toNat < 2 ^ p.fmtBits → decode p w = .ok (.codecBegin (addr.setWidth 7) fmt wl rate))

/-- 30_encoding.md R104: words of 95_test_vectors.md decode to the commands they stand for. -/
def Obligations.SampleWordsDecode : Prop :=
  decode Config.defaults 0x0100000000000000 = .ok .dacBegin ∧
  decode Config.defaults 0x02000000000107FF = .ok (.dacWriteData .buf 0x7FF) ∧
  decode Config.defaults 0x0300000001230456 = .ok (.dacWrite 0x123 0x456) ∧
  decode Config.defaults 0x0400000000020ABC = .ok (.dacWriteDataFast .aUpd 0xABC) ∧
  decode Config.defaults 0x0500000008000001 = .ok (.dacWriteFast 0x800 0x001) ∧
  decode Config.defaults 0x101B011800001F40 = .ok (.codecBegin 0x1B 1 24 8000) ∧
  decode Config.defaults 0x140000000000001F = .ok (.codecSetInputVolume 31) ∧
  decode Config.defaults 0x16000000006400AB = .ok (.codecSet 100 0x0AB) ∧
  decode Config.defaults 0x1700000000040000 = .ok (.codecGet 4)

/-- 30_encoding.md R125: the lines of program P1 and the first of P2 (95_test_vectors.md) assemble to their words. -/
def Obligations.SampleAssemblyWords : Prop :=
  assemble ["dac.begin", "dac.write 0x123, 0x456", "dac.wd buf, 0x7FF", "dac.wdf aupd, 0xABC", "dac.wd bbuf, 0xF005",
      "cdc.begin 0x1B, 8000, 24, 1"] =
    some [0x0100000000000000, 0x0300000001230456, 0x02000000000107FF, 0x0400000000020ABC, 0x020000000000F005,
      0x101B011800001F40]

/-! ## The DAC unit -/

/-- 40_dac.md R143: the two bytes are the source's wire format on the value's low 12 bits. -/
def Obligations.DacBytesAreWireFormat : Prop :=
  ∀ (c : Config.Instantiation) (code : Byte) (v : BitVec 16),
    dacByte0 c code v = (((v &&& 0x0FFF#16) >>> 8) &&& 0x0F#16).setWidth 8 ||| code ||| controlByte c ∧
    dacByte1 v = ((v &&& 0x0FFF#16) &&& 0xFF#16).setWidth 8

/-- 40_dac.md R151: value, command code and control byte are recovered from the two bytes, under every legal
parameter set. -/
def Obligations.DacBytesRoundTrip : Prop :=
  ∀ (c : Config.Instantiation) (sel : DacSel) (v : BitVec 16), Config.Legal c.params →
    let b0 := dacByte0 c (cmdCode c.params sel) v
    let b1 := dacByte1 v
    (b0.extractLsb' 0 4 ++ b1).setWidth 16 = v &&& 0x0FFF#16 ∧
    b0 &&& c.params.dacCmdField = cmdCode c.params sel ∧
    b0 &&& (c.params.dacCtrlFast ||| c.params.dacCtrlPowerdown) = controlByte c

/-- 40_dac.md R146: `DAC_BEGIN` completes in every state, a second time too. -/
def Obligations.DacBeginEffect : Prop :=
  ∀ s : State,
    exec .dacBegin s = .next
      { s with
        dac := { s.dac with begun := true, cs := .high }
        trace := s.trace ++ [.spiConfig .msbFirst s.inst.params.spiMode s.inst.params.spiClockDivider,
          .csOutput s.inst.params.dacCsLine, .csHigh s.inst.params.dacCsLine]
        result := none } ∧
    encode .dacBegin = 0x0100000000000000#64

/-- 40_dac.md R147, R141, R145: `DAC_WRITE_DATA` sends one delayed frame, or faults with its word before any event. -/
def Obligations.DacWriteDataEffect : Prop :=
  ∀ (s : State) (sel : DacSel) (v : BitVec 16),
    let line := s.inst.params.dacCsLine
    let wait := Event.delayUs s.inst.params.tSettleUs
    (s.dac.begun = true → exec (.dacWriteData sel v) s = .next
      { s with
        dac := { s.dac with cs := .high }
        trace := s.trace ++ [.csLow line, wait, .spiXfer (dacByte0 s.inst (cmdCode s.inst.params sel) v),
          .spiXfer (dacByte1 v), wait, .csHigh line]
        result := none }) ∧
    (s.dac.begun = false → exec (.dacWriteData sel v) s =
      .next { s with fault := some (.dacNotBegun (encode (.dacWriteData sel v))) }) ∧
    encode (.dacWriteData sel v) = 0x02#64 <<< 56 ||| (selBits sel).setWidth 64 <<< 16 ||| v.setWidth 64

/-- 40_dac.md R148: `DAC_WRITE` sends the buffer frame of B and then the A-update-B frame of A, or nothing. -/
def Obligations.DacWriteEffect : Prop :=
  ∀ (s : State) (va vb : BitVec 16),
    let p := s.inst.params
    let line := p.dacCsLine
    let wait := Event.delayUs p.tSettleUs
    (s.dac.begun = true → exec (.dacWrite va vb) s = .next
      { s with
        dac := { s.dac with cs := .high }
        trace := s.trace ++
          [.csLow line, wait, .spiXfer (dacByte0 s.inst p.dacCmdBuffer vb), .spiXfer (dacByte1 vb), wait, .csHigh line,
           .csLow line, wait, .spiXfer (dacByte0 s.inst p.dacCmdAUpdateB va), .spiXfer (dacByte1 va), wait, .csHigh line]
        result := none }) ∧
    (s.dac.begun = false → exec (.dacWrite va vb) s =
      .next { s with fault := some (.dacNotBegun (encode (.dacWrite va vb))) }) ∧
    encode (.dacWrite va vb) = 0x03#64 <<< 56 ||| va.setWidth 64 <<< 16 ||| vb.setWidth 64

/-- 40_dac.md R149, R142: `DAC_WRITE_DATA_FAST` sends one fast frame, which leaves no interrupt held off, or faults. -/
def Obligations.DacWriteDataFastEffect : Prop :=
  ∀ (s : State) (sel : DacSel) (v : BitVec 16),
    let line := s.inst.params.dacCsLine
    (s.dac.begun = true → exec (.dacWriteDataFast sel v) s = .next
      { s with
        dac := { s.dac with cs := .high, irqInhibit := false }
        trace := s.trace ++ [.csLow line, .irqOff, .spiXfer (dacByte0 s.inst (cmdCode s.inst.params sel) v),
          .spiXfer (dacByte1 v), .irqOn, .csHigh line]
        result := none }) ∧
    (s.dac.begun = false → exec (.dacWriteDataFast sel v) s =
      .next { s with fault := some (.dacNotBegun (encode (.dacWriteDataFast sel v))) }) ∧
    encode (.dacWriteDataFast sel v) = 0x04#64 <<< 56 ||| (selBits sel).setWidth 64 <<< 16 ||| v.setWidth 64

/-- 40_dac.md R150: `DAC_WRITE_FAST` sends the same two frames as `DAC_WRITE`, each a fast frame, or nothing. -/
def Obligations.DacWriteFastEffect : Prop :=
  ∀ (s : State) (va vb : BitVec 16),
    let p := s.inst.params
    let line := p.dacCsLine
    (s.dac.begun = true → exec (.dacWriteFast va vb) s = .next
      { s with
        dac := { s.dac with cs := .high, irqInhibit := false }
        trace := s.trace ++
          [.csLow line, .irqOff, .spiXfer (dacByte0 s.inst p.dacCmdBuffer vb), .spiXfer (dacByte1 vb), .irqOn,
           .csHigh line, .csLow line, .irqOff, .spiXfer (dacByte0 s.inst p.dacCmdAUpdateB va), .spiXfer (dacByte1 va),
           .irqOn, .csHigh line]
        result := none }) ∧
    (s.dac.begun = false → exec (.dacWriteFast va vb) s =
      .next { s with fault := some (.dacNotBegun (encode (.dacWriteFast va vb))) }) ∧
    encode (.dacWriteFast va vb) = 0x05#64 <<< 56 ||| va.setWidth 64 <<< 16 ||| vb.setWidth 64

/-- 30_encoding.md R126: `DAC_WRITE` means `dac.wd buf, valueB` then `dac.wd aupd, valueA`, and `DAC_WRITE_FAST` the same
with `dac.wdf`. -/
def Obligations.DualWriteIsTwoSingleWrites : Prop :=
  ∀ (s : State) (va vb : BitVec 16), s.dac.begun = true →
    (∃ t u : State, exec (.dacWriteData .buf vb) s = .next t ∧ exec (.dacWriteData .aUpd va) t = .next u ∧
      exec (.dacWrite va vb) s = .next u) ∧
    (∃ t u : State, exec (.dacWriteDataFast .buf vb) s = .next t ∧ exec (.dacWriteDataFast .aUpd va) t = .next u ∧
      exec (.dacWriteFast va vb) s = .next u)

/-- 70_reset_and_hazards.md R281, 30_encoding.md R107: bits 15:12 of a DAC value change nothing a begun unit does. -/
def Obligations.DacValueHighBitsDropped : Prop :=
  ∀ (s : State) (sel : DacSel) (v va vb : BitVec 16), s.dac.begun = true →
    exec (.dacWriteData sel v) s = exec (.dacWriteData sel (v &&& 0x0FFF#16)) s ∧
    exec (.dacWriteDataFast sel v) s = exec (.dacWriteDataFast sel (v &&& 0x0FFF#16)) s ∧
    exec (.dacWrite va vb) s = exec (.dacWrite (va &&& 0x0FFF#16) (vb &&& 0x0FFF#16)) s ∧
    exec (.dacWriteFast va vb) s = exec (.dacWriteFast (va &&& 0x0FFF#16) (vb &&& 0x0FFF#16)) s

/-- 40_dac.md R153: under the DAC observer a dual write of either form puts both values on the outputs at its second frame;
the first frame leaves the outputs alone. -/
def Obligations.DualWriteReachesBothChannels : Prop :=
  ∀ (s : State) (va vb : BitVec 16) (o : DacChip) (i : Instr),
    Config.Legal s.inst.params → s.dac.begun = true →
    (DacChip.after s.inst.params o s.trace).window = .closed →
    i = .dacWrite va vb ∨ i = .dacWriteFast va vb →
    ∃ t : State, exec i s = .next t ∧
      (t.trace.drop s.trace.length).filterMap spiByte =
        [dacByte0 s.inst s.inst.params.dacCmdBuffer vb, dacByte1 vb,
         dacByte0 s.inst s.inst.params.dacCmdAUpdateB va, dacByte1 va] ∧
      (DacChip.after s.inst.params o (t.trace.take (s.trace.length + 6))).outA =
        (DacChip.after s.inst.params o s.trace).outA ∧
      (DacChip.after s.inst.params o (t.trace.take (s.trace.length + 6))).outB =
        (DacChip.after s.inst.params o s.trace).outB ∧
      (DacChip.after s.inst.params o t.trace).outA = some ((va &&& 0x0FFF#16).setWidth 12) ∧
      (DacChip.after s.inst.params o t.trace).outB = some ((vb &&& 0x0FFF#16).setWidth 12) ∧
      (DacChip.after s.inst.params o t.trace).buf = some ((vb &&& 0x0FFF#16).setWidth 12)

/-- 40_dac.md R154 for `DAC_WRITE_DATA`, and the same for `DAC_WRITE_DATA_FAST` by R149 and 20_memory.md R81 (that a fast
frame latches is PRESUMED, log entry 10): what each selector does to the chip, whose `ctl` takes the control byte (R81,
R143); and no command writes channel A without channel B taking the buffer. -/
def Obligations.SingleWriteOnTheChip : Prop :=
  (∀ (s : State) (sel : DacSel) (v : BitVec 16) (o : DacChip) (i : Instr),
    Config.Legal s.inst.params → s.dac.begun = true →
    (DacChip.after s.inst.params o s.trace).window = .closed →
    i = .dacWriteData sel v ∨ i = .dacWriteDataFast sel v →
    ∃ t : State, exec i s = .next t ∧
      let b := DacChip.after s.inst.params o s.trace
      let c := DacChip.after s.inst.params o t.trace
      let val : Bits12 := (v &&& 0x0FFF#16).setWidth 12
      c.window = .closed ∧ c.ctl = some (controlByte s.inst) ∧
      (sel = .bBuf → c.outB = some val ∧ c.buf = some val ∧ c.outA = b.outA) ∧
      (sel = .buf → c.buf = some val ∧ c.outA = b.outA ∧ c.outB = b.outB) ∧
      (sel = .aUpd → c.outA = some val ∧ c.outB = b.buf ∧ c.buf = b.buf)) ∧
  (∀ (i : Instr) (s t : State) (o : DacChip),
    Config.Legal s.inst.params → (DacChip.after s.inst.params o s.trace).window = .closed →
    exec i s = .next t →
    (DacChip.after s.inst.params o t.trace).outA = (DacChip.after s.inst.params o s.trace).outA ∨
    (DacChip.after s.inst.params o t.trace).outB = (DacChip.after s.inst.params o t.trace).buf)

/-! ## The codec unit -/

/-- 20_memory.md R75, 41_codec.md R184: the two bytes of a register write are the 16-bit word of register and value. -/
def Obligations.RegisterWriteWord : Prop :=
  ∀ (r : Bits7) (v : Bits9),
    wireWord (regByte0 r v) (regByte1 v) = (r ++ v : BitVec 16) ∧
    (regByte0 r v).toNat = 2 * r.toNat + v.toNat / 256 ∧ (regByte1 v).toNat = v.toNat % 256

/-- 41_codec.md R182, R183: the two lookups. -/
def Obligations.CodecLookups : Prop :=
  (iwl 16 = 0#2 ∧ iwl 20 = 1#2 ∧ iwl 24 = 2#2 ∧ iwl 32 = 3#2 ∧
    ∀ wl : Byte, wl ≠ 16 → wl ≠ 20 → wl ≠ 24 → wl ≠ 32 → iwl wl = 0#2) ∧
  (sampleRateCode 8000 = 3#4 ∧ sampleRateCode 32000 = 6#4 ∧ sampleRateCode 96000 = 7#4 ∧ sampleRateCode 48000 = 0#4 ∧
    ∀ rate : BitVec 32, rate ≠ 8000 → rate ≠ 32000 → rate ≠ 96000 → sampleRateCode rate = 0#4)

/-- 41_codec.md R186: under every legal parameter set the interface-format value holds the format family and the
word-length code in their fields and 0 in every other bit. -/
def Obligations.InterfaceFormatFields : Prop :=
  ∀ (p : Config.Params) (fmt wl : Byte), Config.Legal p → fmtLegal p fmt = true →
    (ifaceValue p fmt wl).toNat / 2 ^ p.fmtShift % 2 ^ p.fmtBits = fmt.toNat ∧
    (ifaceValue p fmt wl).toNat / 2 ^ p.iwlShift % 4 = (iwl wl).toNat ∧
    ∀ k : Nat, (k < p.fmtShift ∨ p.fmtShift + p.fmtBits ≤ k) → (k < p.iwlShift ∨ p.iwlShift + 2 ≤ k) →
      (ifaceValue p fmt wl).getLsbD k = false

/-- 41_codec.md R187: under every legal parameter set the sampling value holds the rate's code in its field and 0 in every
other bit. -/
def Obligations.SamplingField : Prop :=
  ∀ (p : Config.Params) (rate : BitVec 32), Config.Legal p →
    (samplingValue p rate).toNat = (sampleRateCode rate).toNat * 2 ^ p.srShift

/-- 41_codec.md R188: the merge takes the mask's bits from the volume and keeps every other bit of the old value. -/
def Obligations.VolumeMergeBitByBit : Prop :=
  ∀ (old : Bits9) (vol : Byte) (mask : Bits9) (k : Nat), k < 9 →
    (volumeMerge old vol mask).getLsbD k = if mask.getLsbD k then vol.getLsbD k else old.getLsbD k

/-- 41_codec.md R196, R184: `CODEC_SET` writes the cell when there is one and sends the write in any case, or faults with
its word while no address is recorded. -/
def Obligations.CodecSetEffect : Prop :=
  ∀ (s : State) (r : Bits7) (v : Bits9),
    (∀ a, s.codec.addr = some a → exec (.codecSet r v) s = .next
      { s with
        codec := { s.codec with shadow := s.codec.shadow.setIfInBounds r.toNat v }
        trace := s.trace ++ [.i2cWrite a (regByte0 r v) (regByte1 v)]
        result := none }) ∧
    (s.codec.addr = none → exec (.codecSet r v) s =
      .next { s with fault := some (.codecNotBegun (encode (.codecSet r v))) }) ∧
    encode (.codecSet r v) = 0x16#64 <<< 56 ||| r.setWidth 64 <<< 16 ||| v.setWidth 64

/-- 41_codec.md R197: `CODEC_GET` completes in every state and changes only the result port. -/
def Obligations.CodecGetEffect : Prop :=
  ∀ (s : State) (i : ShadowIndex),
    exec (.codecGet i) s = .next { s with result := some s.codec.shadow[i] } ∧
    encode (.codecGet i) = 0x17#64 <<< 56 ||| i.toReg.setWidth 64 <<< 16

/-- 41_codec.md R191, 70_reset_and_hazards.md R273: `CODEC_RESET` sends 0 to the reset register and changes no cell and
nothing else but the result, or faults. -/
def Obligations.CodecResetEffect : Prop :=
  ∀ s : State, Config.Legal s.inst.params →
    (∀ a, s.codec.addr = some a → exec .codecReset s = .next
      { s with
        trace := s.trace ++ [.i2cWrite a (regByte0 s.inst.params.regReset 0x000#9) (regByte1 0x000#9)]
        result := none }) ∧
    (s.codec.addr = none → exec .codecReset s = .next { s with fault := some (.codecNotBegun 0x1100000000000000#64) }) ∧
    encode .codecReset = 0x1100000000000000#64

/-- 41_codec.md R192, R193: `CODEC_SET_ACTIVE` writes 1 and `CODEC_SET_INACTIVE` writes 0 to the control-active register,
or they fault. -/
def Obligations.CodecActivationEffect : Prop :=
  ∀ s : State,
    let active := s.inst.params.regActive
    (∀ a, s.codec.addr = some a →
      exec .codecSetActive s = .next
        { s with
          codec := { s.codec with shadow := s.codec.shadow.setIfInBounds active.val 0x001#9 }
          trace := s.trace ++ [.i2cWrite a (regByte0 active.toReg 0x001#9) (regByte1 0x001#9)]
          result := none } ∧
      exec .codecSetInactive s = .next
        { s with
          codec := { s.codec with shadow := s.codec.shadow.setIfInBounds active.val 0x000#9 }
          trace := s.trace ++ [.i2cWrite a (regByte0 active.toReg 0x000#9) (regByte1 0x000#9)]
          result := none }) ∧
    (s.codec.addr = none →
      exec .codecSetActive s = .next { s with fault := some (.codecNotBegun 0x1200000000000000#64) } ∧
      exec .codecSetInactive s = .next { s with fault := some (.codecNotBegun 0x1300000000000000#64) }) ∧
    encode .codecSetActive = 0x1200000000000000#64 ∧ encode .codecSetInactive = 0x1300000000000000#64

/-- 41_codec.md R194: `CODEC_SET_INPUT_VOLUME` merges the volume under `IN_VOL_MASK` into each line-input cell from that
cell's own value, left first, or faults; with the mask 00_scope.md R10 settles, bits 8:5 are the kept ones. -/
def Obligations.InputVolumeEffect : Prop :=
  ∀ (s : State) (vol : Byte), Config.Legal s.inst.params → vol.toNat ≤ 31 →
    let l := s.inst.params.regLeftLineIn
    let r := s.inst.params.regRightLineIn
    let mask := s.inst.params.inVolMask
    let nl : Bits9 := s.codec.shadow[l] &&& ~~~mask ||| vol.setWidth 9 &&& mask
    let nr : Bits9 := s.codec.shadow[r] &&& ~~~mask ||| vol.setWidth 9 &&& mask
    (mask = 0x01F#9 → nl = s.codec.shadow[l] &&& 0x1E0#9 ||| vol.setWidth 9 ∧
      nr = s.codec.shadow[r] &&& 0x1E0#9 ||| vol.setWidth 9) ∧
    (∀ a, s.codec.addr = some a → exec (.codecSetInputVolume vol) s = .next
      { s with
        codec := { s.codec with shadow := (s.codec.shadow.setIfInBounds l.val nl).setIfInBounds r.val nr }
        trace := s.trace ++ [.i2cWrite a (regByte0 l.toReg nl) (regByte1 nl), .i2cWrite a (regByte0 r.toReg nr) (regByte1 nr)]
        result := none }) ∧
    (s.codec.addr = none → exec (.codecSetInputVolume vol) s =
      .next { s with fault := some (.codecNotBegun (encode (.codecSetInputVolume vol))) }) ∧
    encode (.codecSetInputVolume vol) = 0x14#64 <<< 56 ||| vol.setWidth 64

/-- 41_codec.md R195: `CODEC_SET_OUTPUT_VOLUME` does the same for the headphone-output cells under `OUT_VOL_MASK`, or
faults; with the mask 00_scope.md R10 settles, bits 8:6 are the kept ones. -/
def Obligations.OutputVolumeEffect : Prop :=
  ∀ (s : State) (vol : Byte), Config.Legal s.inst.params → vol.toNat ≤ 63 →
    let l := s.inst.params.regLeftHpOut
    let r := s.inst.params.regRightHpOut
    let mask := s.inst.params.outVolMask
    let nl : Bits9 := s.codec.shadow[l] &&& ~~~mask ||| vol.setWidth 9 &&& mask
    let nr : Bits9 := s.codec.shadow[r] &&& ~~~mask ||| vol.setWidth 9 &&& mask
    (mask = 0x03F#9 → nl = s.codec.shadow[l] &&& 0x1C0#9 ||| vol.setWidth 9 ∧
      nr = s.codec.shadow[r] &&& 0x1C0#9 ||| vol.setWidth 9) ∧
    (∀ a, s.codec.addr = some a → exec (.codecSetOutputVolume vol) s = .next
      { s with
        codec := { s.codec with shadow := (s.codec.shadow.setIfInBounds l.val nl).setIfInBounds r.val nr }
        trace := s.trace ++ [.i2cWrite a (regByte0 l.toReg nl) (regByte1 nl), .i2cWrite a (regByte0 r.toReg nr) (regByte1 nr)]
        result := none }) ∧
    (s.codec.addr = none → exec (.codecSetOutputVolume vol) s =
      .next { s with fault := some (.codecNotBegun (encode (.codecSetOutputVolume vol))) }) ∧
    encode (.codecSetOutputVolume vol) = 0x15#64 <<< 56 ||| vol.setWidth 64

/-- 41_codec.md R190, R202: `CODEC_BEGIN` completes in every state: it records the address, initializes the bus on the first
call only, sends its ten writes in order, and leaves the shadow as R202 says (the ten indices are all ten cells). -/
def Obligations.CodecBeginEffect : Prop :=
  ∀ (s : State) (a : Bits7) (fmt wl : Byte) (rate : BitVec 32), Config.Legal s.inst.params →
    let p := s.inst.params
    let send : Bits7 → Bits9 → Event := fun r v => .i2cWrite a (regByte0 r v) (regByte1 v)
    (∃ sh : Vector Bits9 10,
      exec (.codecBegin a fmt wl rate) s = .next
        { s with
          codec := { initialized := true, addr := some a, shadow := sh }
          trace := s.trace ++ (if s.codec.initialized then [] else [.i2cInit, .delayMs p.tStartupMs]) ++
            [send p.regReset 0x000#9, send p.regPowerDown.toReg 0x000#9,
             send p.regInterfaceFormat.toReg (ifaceValue p fmt wl), send p.regLeftLineIn.toReg 0x000#9,
             send p.regRightLineIn.toReg 0x000#9, send p.regLeftHpOut.toReg 0x000#9, send p.regRightHpOut.toReg 0x000#9,
             send p.regAnalogPath.toReg p.routeDacOnly, send p.regDigitalPath.toReg 0x000#9,
             send p.regSampling.toReg (samplingValue p rate)]
          result := none } ∧
      sh[p.regLeftLineIn] = 0x000#9 ∧ sh[p.regRightLineIn] = 0x000#9 ∧ sh[p.regLeftHpOut] = 0x000#9 ∧
      sh[p.regRightHpOut] = 0x000#9 ∧ sh[p.regPowerDown] = 0x000#9 ∧ sh[p.regDigitalPath] = 0x000#9 ∧
      sh[p.regAnalogPath] = p.routeDacOnly ∧ sh[p.regInterfaceFormat] = ifaceValue p fmt wl ∧
      sh[p.regSampling] = samplingValue p rate ∧ sh[p.regActive] = s.codec.shadow[p.regActive]) ∧
    encode (.codecBegin a fmt wl rate) =
      0x10#64 <<< 56 ||| a.setWidth 64 <<< 48 ||| fmt.setWidth 64 <<< 40 ||| wl.setWidth 64 <<< 32 ||| rate.setWidth 64

/-- 41_codec.md R198: a value set in a shadowed register is got back. -/
def Obligations.SetThenGet : Prop :=
  ∀ (s : State) (a : Bits7) (i : ShadowIndex) (v : Bits9), s.codec.addr = some a →
    ∃ t u : State, exec (.codecSet i.toReg v) s = .next t ∧ exec (.codecGet i) t = .next u ∧ u.result = some v

/-- 41_codec.md R199: a write to a register in 10..127 is sent and leaves all ten cells, and so every `CODEC_GET`, as they
were. -/
def Obligations.OutOfRangeSetIsSent : Prop :=
  ∀ (s : State) (a : Bits7) (r : Bits7) (v : Bits9), s.codec.addr = some a → 10 ≤ r.toNat →
    ∃ t : State, exec (.codecSet r v) s = .next t ∧ t.codec.shadow = s.codec.shadow ∧
      t.trace = s.trace ++ [.i2cWrite a (r.setWidth 8 <<< 1 ||| (v.extractLsb' 8 1).setWidth 8) (v.extractLsb' 0 8)] ∧
      ∀ i : ShadowIndex, exec (.codecGet i) t = .next { t with result := some s.codec.shadow[i] }

/-- 41_codec.md R200: with the masks 00_scope.md R10 settles, the volume setters set the volume field of both cells and keep
every bit above it. -/
def Obligations.VolumeSettersKeepHighBits : Prop :=
  ∀ (s : State) (a : Bits7) (vol : Byte), Config.Legal s.inst.params → s.codec.addr = some a →
    (s.inst.params.inVolMask = 0x01F#9 → vol.toNat ≤ 31 → ∃ t : State, exec (.codecSetInputVolume vol) s = .next t ∧
      ∀ i : ShadowIndex, i = s.inst.params.regLeftLineIn ∨ i = s.inst.params.regRightLineIn →
        t.codec.shadow[i].toNat % 32 = vol.toNat ∧ t.codec.shadow[i].toNat / 32 = s.codec.shadow[i].toNat / 32) ∧
    (s.inst.params.outVolMask = 0x03F#9 → vol.toNat ≤ 63 → ∃ t : State, exec (.codecSetOutputVolume vol) s = .next t ∧
      ∀ i : ShadowIndex, i = s.inst.params.regLeftHpOut ∨ i = s.inst.params.regRightHpOut →
        t.codec.shadow[i].toNat % 64 = vol.toNat ∧ t.codec.shadow[i].toNat / 64 = s.codec.shadow[i].toNat / 64)

/-! ## The whole machine -/

/-- 20_memory.md R90: when the host's next word decodes, the step is that command's, and then the host's position moves by 1
unless the command faulted (10_state.md R33). -/
def Obligations.StepRunsDecodedCommand : Prop :=
  ∀ (s : State) (w : Word64) (i : Instr), Live s → s.host.program[s.host.k]? = some w →
    decode s.inst.params w = .ok i →
    ∀ t : State, exec i s = .next t →
      step s = .next (if t.fault = none then { t with host := { t.host with k := t.host.k + 1 } } else t)

/-- 30_encoding.md R121, 60_exceptions.md R243: a refused word changes only `S.refused`, and the block then takes no
step. -/
def Obligations.RefusedWordStopsTheBlock : Prop :=
  ∀ (s : State) (w : Word64) (r : RefuseReason), Live s → s.host.program[s.host.k]? = some w →
    decode s.inst.params w = .error r →
    step s = .next { s with refused := some r } ∧
    step { s with refused := some r } = .fault (.stoppedByRefusal r)

/-- 30_encoding.md R122: a block with a fault or a refusal recorded takes no step, whatever the host presents. -/
def Obligations.StoppedBlockTakesNoStep : Prop :=
  ∀ s : State, s.fault ≠ none ∨ s.refused ≠ none → ∃ f : Fault, step s = .fault f

/-- 10_state.md R33, 70_reset_and_hazards.md R272: a live block with no word presented stays as it is (that it waits is the
model's choice, log entry 6). -/
def Obligations.BlockWaitsForAWord : Prop :=
  ∀ s : State, Live s → s.host.program.length ≤ s.host.k → step s = .next s

/-- 60_exceptions.md R241, R243: every command answers a next state in every state, and so does a step of a live block. That
a fault or a refusal is a next state with its record set is the form the model chose (log entry 7), and that a live block
with no word presented waits, as a next state, is the model's choice (log entry 6). -/
def Obligations.LiveBlockAlwaysSteps : Prop :=
  (∀ (i : Instr) (s : State), ∃ t : State, exec i s = .next t) ∧
  (∀ s : State, Live s → ∃ t : State, step s = .next t)

/-- 60_exceptions.md R241, R247: a fault changes no field of the state but `S.fault`, and the block then takes no step. -/
def Obligations.FaultIsPrecise : Prop :=
  ∀ (i : Instr) (s t : State) (r : FaultReason), s.fault = none → exec i s = .next t → t.fault = some r →
    t = { s with fault := some r } ∧ (r = .dacNotBegun (encode i) ∨ r = .codecNotBegun (encode i)) ∧
    step t = .fault (.stoppedByFault r)

/-- 10_state.md R33: the program never changes and the position moves by exactly 1 when the word's command completes, and
not at all on a fault or a refusal. -/
def Obligations.PositionMovesOnCompletion : Prop :=
  ∀ (s t : State) (w : Word64), s.host.program[s.host.k]? = some w → step s = .next t →
    t.host.program = s.host.program ∧
    (t.fault = none → t.refused = none → t.host.k = s.host.k + 1) ∧
    (t.fault ≠ none ∨ t.refused ≠ none → t.host.k = s.host.k)

/-- 10_state.md R32: every completed command writes the result port, `CODEC_GET` with its cell and every other with nothing;
a faulted or refused one does not write it; reset leaves it empty. -/
def Obligations.ResultPortWrittenOnCompletion : Prop :=
  (∀ (i : Instr) (s t : State), s.fault = none → exec i s = .next t →
    (t.fault = none → (∀ c : ShadowIndex, i = .codecGet c → t.result = some s.codec.shadow[c]) ∧
      ((∀ c : ShadowIndex, i ≠ .codecGet c) → t.result = none)) ∧
    (t.fault ≠ none → t.result = s.result)) ∧
  (∀ (s t : State), step s = .next t → t.refused ≠ none → t.result = s.result) ∧
  State.reset.result = none

/-- 00_scope.md R3: a command reads and writes only its own unit's state (beside the instantiation) and emits only events of
that unit. -/
def Obligations.UnitsAreIndependent : Prop :=
  (∀ (i : Instr) (s t : State), exec i s = .next t →
    ∃ es : List Event, t.trace = s.trace ++ es ∧ (∀ e ∈ es, e.unit = i.opcode.unit) ∧
      (i.opcode.unit = .dac → t.codec = s.codec) ∧ (i.opcode.unit = .codec → t.dac = s.dac)) ∧
  (∀ (i : Instr) (s₁ s₂ t₁ t₂ : State), s₁.inst = s₂.inst → s₁.fault = s₂.fault →
    (i.opcode.unit = .dac → s₁.dac = s₂.dac) → (i.opcode.unit = .codec → s₁.codec = s₂.codec) →
    exec i s₁ = .next t₁ → exec i s₂ = .next t₂ →
    t₁.fault = t₂.fault ∧ t₁.trace.drop s₁.trace.length = t₂.trace.drop s₂.trace.length ∧
    (i.opcode.unit = .dac → t₁.dac = t₂.dac) ∧ (i.opcode.unit = .codec → t₁.codec = t₂.codec))

/-- 10_state.md R31, R35, R36: a step only appends to the trace and never changes the instantiation. -/
def Obligations.TraceGrowsAndInstantiationStays : Prop :=
  ∀ s t : State, step s = .next t → t.inst = s.inst ∧ ∃ es : List Event, t.trace = s.trace ++ es

/-! ## Invariants every step keeps -/

/-- 10_state.md R38, R39, R40: between two commands chip-select is not asserted and no interrupt is held off. -/
def Obligations.StepKeepsDacAtRest : Prop :=
  ∀ s t : State, DacAtRest s → step s = .next t → DacAtRest t

/-- 10_state.md R47: an address is recorded exactly when the bus is initialized. -/
def Obligations.StepKeepsAddrMatchesInit : Prop :=
  ∀ s t : State, AddrMatchesInit s → step s = .next t → AddrMatchesInit t

/-- 41_codec.md R201: the bus is initialized once, whatever number of `CODEC_BEGIN` commands run. -/
def Obligations.StepKeepsOneBusInit : Prop :=
  ∀ s t : State, OneBusInit s → step s = .next t → OneBusInit t

/-- 20_memory.md R77 (c), 30_encoding.md R113: every I2C write goes to a strap address. -/
def Obligations.StepKeepsStrapAddresses : Prop :=
  ∀ s t : State, StrapAddressesOnly s → step s = .next t → StrapAddressesOnly t

/-- 40_dac.md R152: the trace consists of complete frames, each with exactly two transfers. -/
def Obligations.StepKeepsWellFramed : Prop :=
  ∀ s t : State, WellFramed s → step s = .next t → WellFramed t

/-- 20_memory.md R85: under a legal parameter set the block emits no window without meaning to the DAC observer, at any point
of the trace, and leaves no window open. -/
def Obligations.StepKeepsDacChipUnderstood : Prop :=
  ∀ s t : State, Config.Legal s.inst.params → DacChipUnderstood s → step s = .next t → DacChipUnderstood t

/-- 10_state.md R53: every shadow cell is the value last sent to its register, or 0. -/
def Obligations.StepKeepsShadowIsLastSent : Prop :=
  ∀ s t : State, ShadowIsLastSent s → step s = .next t → ShadowIsLastSent t

/-- 20_memory.md R89: after an acknowledged write to a shadowed register of the chip, and before a later write to it or to
`REG_RESET`, the chip holds the shadow's value there, whatever the other writes; and while every write goes to one chip and
is acknowledged, no register the chip is known to hold differs from the shadow. -/
def Obligations.StepKeepsShadowMirrorsChip : Prop :=
  ∀ (strap : Bits7) (s t : State), step s = .next t →
    (∀ ack : Nat → Bool, AckedWriteIsMirrored strap ack s → AckedWriteIsMirrored strap ack t) ∧
    (ShadowMirrorsChip strap s → ShadowMirrorsChip strap t)

/-- 60_exceptions.md R246, 10_state.md R33: one stop reason at most, and the host's position inside its program. -/
def Obligations.StepKeepsStopAndPosition : Prop :=
  ∀ s t : State, OneStopReason s → PositionInProgram s → step s = .next t → OneStopReason t ∧ PositionInProgram t

/-- 70_reset_and_hazards.md R270: every invariant holds after reset, for every instantiation and any program loaded. -/
def Obligations.ResetMeetsTheInvariants : Prop :=
  ∀ (c : Config.Instantiation) (ws : List Word64) (strap : Bits7),
    let s := (State.boot c).load ws
    DacAtRest s ∧ AddrMatchesInit s ∧ OneBusInit s ∧ StrapAddressesOnly s ∧ WellFramed s ∧ DacChipUnderstood s ∧
    ShadowIsLastSent s ∧ (∀ ack : Nat → Bool, AckedWriteIsMirrored strap ack s) ∧ ShadowMirrorsChip strap s ∧
    OneStopReason s ∧ PositionInProgram s
end

