-- ==== Sys2Proof/Laws/PerInstr.lean ====
section
/-! SUPPORT. Facts proved command by command about the syntax: the command word of every command selects its own row of
the opcode map (30_encoding.md R103, R104), and its opcode byte is that row's. -/

namespace Sys2Proof.Laws.EncodeSelectsRow

/-- `w & mask = match` for the word of a command and its own row (30_encoding.md R103). -/
def Statement (i : Instr) : Prop := encode i &&& i.opcode.rowMask = i.opcode.row

/-- A row's match lies inside its mask (30_encoding.md R103). -/
theorem row_in_mask (o : Opcode) : o.row &&& o.rowMask = o.row := by cases o <;> decide

/-- Operand bits the row's mask clears leave the row's match. -/
theorem of_operands {i : Instr} (o : Opcode) (ho : i.opcode = o) (h : operandBits i &&& o.rowMask = 0#64) :
    Statement i := by
  subst ho
  unfold Statement encode
  rw [BitVec.and_comm, BitVec.and_or_distrib_left, BitVec.and_comm _ (operandBits i), h, BitVec.or_zero,
    BitVec.and_comm, row_in_mask]

/-- A field of n bits at place k meets a mask only in its own bits. -/
theorem field_clear {n : Nat} (x : BitVec n) (k : Nat) (m : Word64) (h : ∀ j, k ≤ j → j < k + n → m.getLsbD j = false) :
    x.setWidth 64 <<< k &&& m = 0#64 := by
  apply BitVec.eq_of_getLsbD_eq
  intro j hj
  simp only [BitVec.getLsbD_and, BitVec.getLsbD_shiftLeft, BitVec.getLsbD_setWidth, BitVec.getLsbD_zero]
  by_cases h1 : k ≤ j
  · by_cases h2 : j < k + n
    · simp [h j h1 h2]
    · simp [BitVec.getLsbD_of_ge x (j - k) (by omega)]
  · simp [show j < k by omega]

/-- The same for a field at place 0. -/
theorem field_clear_low {n : Nat} (x : BitVec n) (m : Word64) (h : ∀ j, j < n → m.getLsbD j = false) :
    x.setWidth 64 &&& m = 0#64 := by
  have := field_clear x 0 m (fun j _ h2 => h j (by omega))
  simpa using this

/-- Two cleared fields together are cleared. -/
theorem or_clear {x y m : Word64} (hx : x &&& m = 0#64) (hy : y &&& m = 0#64) : (x ||| y) &&& m = 0#64 := by
  rw [BitVec.and_comm, BitVec.and_or_distrib_left, BitVec.and_comm m x, BitVec.and_comm m y, hx, hy, BitVec.or_zero]

theorem dacBegin : Statement .dacBegin := of_operands .dacBegin rfl (by decide)

theorem dacWriteData (sel : DacSel) (value : BitVec 16) : Statement (.dacWriteData sel value) :=
  of_operands .dacWriteData rfl (or_clear (field_clear _ _ _ (by decide)) (field_clear_low _ _ (by decide)))

theorem dacWrite (va vb : BitVec 16) : Statement (.dacWrite va vb) :=
  of_operands .dacWrite rfl (or_clear (field_clear _ _ _ (by decide)) (field_clear_low _ _ (by decide)))

theorem dacWriteDataFast (sel : DacSel) (value : BitVec 16) : Statement (.dacWriteDataFast sel value) :=
  of_operands .dacWriteDataFast rfl (or_clear (field_clear _ _ _ (by decide)) (field_clear_low _ _ (by decide)))

theorem dacWriteFast (va vb : BitVec 16) : Statement (.dacWriteFast va vb) :=
  of_operands .dacWriteFast rfl (or_clear (field_clear _ _ _ (by decide)) (field_clear_low _ _ (by decide)))

theorem codecBegin (addr : Bits7) (fmt wl : Byte) (rate : BitVec 32) : Statement (.codecBegin addr fmt wl rate) :=
  of_operands .codecBegin rfl
    (or_clear (or_clear (or_clear (field_clear _ _ _ (by decide)) (field_clear _ _ _ (by decide)))
      (field_clear _ _ _ (by decide))) (field_clear_low _ _ (by decide)))

theorem codecReset : Statement .codecReset := of_operands .codecReset rfl (by decide)

theorem codecSetActive : Statement .codecSetActive := of_operands .codecSetActive rfl (by decide)

theorem codecSetInactive : Statement .codecSetInactive := of_operands .codecSetInactive rfl (by decide)

theorem codecSetInputVolume (vol : Byte) : Statement (.codecSetInputVolume vol) :=
  of_operands .codecSetInputVolume rfl (field_clear_low _ _ (by decide))

theorem codecSetOutputVolume (vol : Byte) : Statement (.codecSetOutputVolume vol) :=
  of_operands .codecSetOutputVolume rfl (field_clear_low _ _ (by decide))

theorem codecSet (reg : Bits7) (val : Bits9) : Statement (.codecSet reg val) :=
  of_operands .codecSet rfl (or_clear (field_clear _ _ _ (by decide)) (field_clear_low _ _ (by decide)))

theorem codecGet (reg : ShadowIndex) : Statement (.codecGet reg) :=
  of_operands .codecGet rfl (field_clear _ _ _ (by decide))

end Sys2Proof.Laws.EncodeSelectsRow
end

