-- ==== Sys2Proof/Laws/Decode.lean ====
section
/-! SUPPORT. What selecting a row of the opcode map gives: the opcode, no reserved bit, and so the operand decode of that
row (30_encoding.md R103, R104, R120). -/

namespace Sys2Proof

/-- The opcode map is read back from its own codes (30_encoding.md R104). -/
theorem opcodeOf_code (o : Opcode) : opcodeOf o.code = some o := by cases o <;> decide

theorem code_of_opcodeOf {b : Byte} {o : Opcode} (h : opcodeOf b = some o) : o.code = b := by
  unfold opcodeOf at h
  simpa using List.find?_some h

/-- The match column of each row (30_encoding.md R104). -/
theorem row_literals :
    Opcode.row .dacBegin = 0x0100000000000000#64 ∧ Opcode.row .dacWriteData = 0x0200000000000000#64 ∧
    Opcode.row .dacWrite = 0x0300000000000000#64 ∧ Opcode.row .dacWriteDataFast = 0x0400000000000000#64 ∧
    Opcode.row .dacWriteFast = 0x0500000000000000#64 ∧ Opcode.row .codecBegin = 0x1000000000000000#64 ∧
    Opcode.row .codecReset = 0x1100000000000000#64 ∧ Opcode.row .codecSetActive = 0x1200000000000000#64 ∧
    Opcode.row .codecSetInactive = 0x1300000000000000#64 ∧ Opcode.row .codecSetInputVolume = 0x1400000000000000#64 ∧
    Opcode.row .codecSetOutputVolume = 0x1500000000000000#64 ∧ Opcode.row .codecSet = 0x1600000000000000#64 ∧
    Opcode.row .codecGet = 0x1700000000000000#64 := by decide

/-- A word that selects a row has that row's opcode byte. -/
theorem opByte_of_row {w : Word64} {o : Opcode} (h : w &&& o.rowMask = o.row) : opByte w = o.code := by
  apply BitVec.eq_of_getLsbD_eq
  intro k hk
  have h2 := congrArg (fun x => x.getLsbD (56 + k)) h
  have hm : o.rowMask.getLsbD (56 + k) = true := by cases o <;> (interval_cases k <;> decide)
  have hr : o.row.getLsbD (56 + k) = o.code.getLsbD k := by cases o <;> (interval_cases k <;> decide)
  simp only [BitVec.getLsbD_and, hm, hr, Bool.and_true] at h2
  rw [← h2]
  simp [opByte, hk]

/-- A word that selects a row has no reserved bit of its format set. -/
theorem reserved_of_row {w : Word64} {o : Opcode} (h : w &&& o.rowMask = o.row) : w &&& o.format.reserved = 0#64 := by
  have inside : o.rowMask &&& o.format.reserved = o.format.reserved := by cases o <;> decide
  have apart : o.row &&& o.format.reserved = 0#64 := by cases o <;> decide
  rw [← inside, ← BitVec.and_assoc, h, apart]

/-- An opcode byte and clear reserved bits select the row. -/
theorem row_of_opByte {w : Word64} {o : Opcode} (h : opByte w = o.code) (h2 : w &&& o.format.reserved = 0#64) :
    w &&& o.rowMask = o.row := by
  rw [Opcode.rowMask, BitVec.and_or_distrib_left, h2, BitVec.or_zero]
  apply BitVec.eq_of_getLsbD_eq
  intro k hk
  simp only [Opcode.row, ← h, opByte]
  interval_cases k <;> simp

/-- Decode of a word that selects a row is the operand decode of that row (30_encoding.md R120). -/
theorem decode_of_row (p : Config.Params) {w : Word64} {o : Opcode} (h : w &&& o.rowMask = o.row) :
    decode p w = decodeOperands p o w := by
  unfold decode
  rw [opByte_of_row h, opcodeOf_code]
  simp [reserved_of_row h]

/-- The word of every command selects its row (the family EncodeSelectsRow, command by command). -/
theorem encode_row (i : Instr) : encode i &&& i.opcode.rowMask = i.opcode.row := by
  cases i with
  | dacBegin => exact Laws.EncodeSelectsRow.dacBegin
  | dacWriteData => exact Laws.EncodeSelectsRow.dacWriteData _ _
  | dacWrite => exact Laws.EncodeSelectsRow.dacWrite _ _
  | dacWriteDataFast => exact Laws.EncodeSelectsRow.dacWriteDataFast _ _
  | dacWriteFast => exact Laws.EncodeSelectsRow.dacWriteFast _ _
  | codecBegin => exact Laws.EncodeSelectsRow.codecBegin _ _ _ _
  | codecReset => exact Laws.EncodeSelectsRow.codecReset
  | codecSetActive => exact Laws.EncodeSelectsRow.codecSetActive
  | codecSetInactive => exact Laws.EncodeSelectsRow.codecSetInactive
  | codecSetInputVolume => exact Laws.EncodeSelectsRow.codecSetInputVolume _
  | codecSetOutputVolume => exact Laws.EncodeSelectsRow.codecSetOutputVolume _
  | codecSet => exact Laws.EncodeSelectsRow.codecSet _ _
  | codecGet => exact Laws.EncodeSelectsRow.codecGet _

/-- Decode of the word of a command is the operand decode of its own row. -/
theorem decode_encode_operands (p : Config.Params) (i : Instr) :
    decode p (encode i) = decodeOperands p i.opcode (encode i) := decode_of_row p (encode_row i)

end Sys2Proof
end

