-- ==== Sys2Proof/Laws/State.lean ====
section
/-! SUPPORT. One lemma per field per update of State, true by rfl, so that no later proof unfolds a record update. -/

namespace Sys2Proof.Machine

/-! ## emit -/

@[simp] theorem emit_inst (e : Event) (s : State) : (emit e s).inst = s.inst := rfl
@[simp] theorem emit_dac (e : Event) (s : State) : (emit e s).dac = s.dac := rfl
@[simp] theorem emit_codec (e : Event) (s : State) : (emit e s).codec = s.codec := rfl
@[simp] theorem emit_trace (e : Event) (s : State) : (emit e s).trace = s.trace ++ [e] := rfl
@[simp] theorem emit_result (e : Event) (s : State) : (emit e s).result = s.result := rfl
@[simp] theorem emit_fault (e : Event) (s : State) : (emit e s).fault = s.fault := rfl
@[simp] theorem emit_refused (e : Event) (s : State) : (emit e s).refused = s.refused := rfl
@[simp] theorem emit_host (e : Event) (s : State) : (emit e s).host = s.host := rfl

/-! ## raiseCs -/

@[simp] theorem raiseCs_inst (s : State) : (raiseCs s).inst = s.inst := rfl
@[simp] theorem raiseCs_dac (s : State) : (raiseCs s).dac = { s.dac with cs := .high } := rfl
@[simp] theorem raiseCs_codec (s : State) : (raiseCs s).codec = s.codec := rfl
@[simp] theorem raiseCs_trace (s : State) :
    (raiseCs s).trace = s.trace ++ [.csHigh s.inst.params.dacCsLine] := rfl
@[simp] theorem raiseCs_result (s : State) : (raiseCs s).result = s.result := rfl
@[simp] theorem raiseCs_fault (s : State) : (raiseCs s).fault = s.fault := rfl
@[simp] theorem raiseCs_refused (s : State) : (raiseCs s).refused = s.refused := rfl
@[simp] theorem raiseCs_host (s : State) : (raiseCs s).host = s.host := rfl

/-! ## lowerCs -/

@[simp] theorem lowerCs_inst (s : State) : (lowerCs s).inst = s.inst := rfl
@[simp] theorem lowerCs_dac (s : State) : (lowerCs s).dac = { s.dac with cs := .low } := rfl
@[simp] theorem lowerCs_codec (s : State) : (lowerCs s).codec = s.codec := rfl
@[simp] theorem lowerCs_trace (s : State) :
    (lowerCs s).trace = s.trace ++ [.csLow s.inst.params.dacCsLine] := rfl
@[simp] theorem lowerCs_result (s : State) : (lowerCs s).result = s.result := rfl
@[simp] theorem lowerCs_fault (s : State) : (lowerCs s).fault = s.fault := rfl
@[simp] theorem lowerCs_refused (s : State) : (lowerCs s).refused = s.refused := rfl
@[simp] theorem lowerCs_host (s : State) : (lowerCs s).host = s.host := rfl

/-! ## inhibitIrq -/

@[simp] theorem inhibitIrq_inst (s : State) : (inhibitIrq s).inst = s.inst := rfl
@[simp] theorem inhibitIrq_dac (s : State) :
    (inhibitIrq s).dac = { s.dac with irqInhibit := true } := rfl
@[simp] theorem inhibitIrq_codec (s : State) : (inhibitIrq s).codec = s.codec := rfl
@[simp] theorem inhibitIrq_trace (s : State) : (inhibitIrq s).trace = s.trace ++ [.irqOff] := rfl
@[simp] theorem inhibitIrq_result (s : State) : (inhibitIrq s).result = s.result := rfl
@[simp] theorem inhibitIrq_fault (s : State) : (inhibitIrq s).fault = s.fault := rfl
@[simp] theorem inhibitIrq_refused (s : State) : (inhibitIrq s).refused = s.refused := rfl
@[simp] theorem inhibitIrq_host (s : State) : (inhibitIrq s).host = s.host := rfl

/-! ## allowIrq -/

@[simp] theorem allowIrq_inst (s : State) : (allowIrq s).inst = s.inst := rfl
@[simp] theorem allowIrq_dac (s : State) :
    (allowIrq s).dac = { s.dac with irqInhibit := false } := rfl
@[simp] theorem allowIrq_codec (s : State) : (allowIrq s).codec = s.codec := rfl
@[simp] theorem allowIrq_trace (s : State) : (allowIrq s).trace = s.trace ++ [.irqOn] := rfl
@[simp] theorem allowIrq_result (s : State) : (allowIrq s).result = s.result := rfl
@[simp] theorem allowIrq_fault (s : State) : (allowIrq s).fault = s.fault := rfl
@[simp] theorem allowIrq_refused (s : State) : (allowIrq s).refused = s.refused := rfl
@[simp] theorem allowIrq_host (s : State) : (allowIrq s).host = s.host := rfl

/-! ## settle -/

@[simp] theorem settle_inst (s : State) : (settle s).inst = s.inst := rfl
@[simp] theorem settle_dac (s : State) : (settle s).dac = s.dac := rfl
@[simp] theorem settle_codec (s : State) : (settle s).codec = s.codec := rfl
@[simp] theorem settle_trace (s : State) :
    (settle s).trace = s.trace ++ [.delayUs s.inst.params.tSettleUs] := rfl
@[simp] theorem settle_result (s : State) : (settle s).result = s.result := rfl
@[simp] theorem settle_fault (s : State) : (settle s).fault = s.fault := rfl
@[simp] theorem settle_refused (s : State) : (settle s).refused = s.refused := rfl
@[simp] theorem settle_host (s : State) : (settle s).host = s.host := rfl

/-! ## setReg -/

@[simp] theorem setReg_inst (a r : Bits7) (v : Bits9) (s : State) : (setReg a r v s).inst = s.inst := rfl
@[simp] theorem setReg_dac (a r : Bits7) (v : Bits9) (s : State) : (setReg a r v s).dac = s.dac := rfl
@[simp] theorem setReg_codec (a r : Bits7) (v : Bits9) (s : State) :
    (setReg a r v s).codec = { s.codec with shadow := writeShadow s.codec.shadow r v } := rfl
@[simp] theorem setReg_trace (a r : Bits7) (v : Bits9) (s : State) :
    (setReg a r v s).trace = s.trace ++ [.i2cWrite a (regByte0 r v) (regByte1 v)] := rfl
@[simp] theorem setReg_result (a r : Bits7) (v : Bits9) (s : State) : (setReg a r v s).result = s.result := rfl
@[simp] theorem setReg_fault (a r : Bits7) (v : Bits9) (s : State) : (setReg a r v s).fault = s.fault := rfl
@[simp] theorem setReg_refused (a r : Bits7) (v : Bits9) (s : State) : (setReg a r v s).refused = s.refused := rfl
@[simp] theorem setReg_host (a r : Bits7) (v : Bits9) (s : State) : (setReg a r v s).host = s.host := rfl

/-! ## recordAddr -/

@[simp] theorem recordAddr_inst (a : Bits7) (s : State) : (recordAddr a s).inst = s.inst := rfl
@[simp] theorem recordAddr_dac (a : Bits7) (s : State) : (recordAddr a s).dac = s.dac := rfl
@[simp] theorem recordAddr_codec (a : Bits7) (s : State) :
    (recordAddr a s).codec = { s.codec with addr := some a } := rfl
@[simp] theorem recordAddr_trace (a : Bits7) (s : State) : (recordAddr a s).trace = s.trace := rfl
@[simp] theorem recordAddr_result (a : Bits7) (s : State) : (recordAddr a s).result = s.result := rfl
@[simp] theorem recordAddr_fault (a : Bits7) (s : State) : (recordAddr a s).fault = s.fault := rfl
@[simp] theorem recordAddr_refused (a : Bits7) (s : State) : (recordAddr a s).refused = s.refused := rfl
@[simp] theorem recordAddr_host (a : Bits7) (s : State) : (recordAddr a s).host = s.host := rfl

end Sys2Proof.Machine
end

