-- ==== Sys2Proof/Laws/Ops.lean ====
section
/-! SUPPORT. One lemma for each shared operation that says once everything it does; later proofs cite it instead of
unfolding the operation. -/

namespace Sys2Proof.Machine

/-! ## Frames -/

/-- All a delayed frame does (40_dac.md R141). -/
theorem delayedFrame_eq (b0 b1 : Byte) (s : State) :
    delayedFrame b0 b1 s =
      { s with
        dac := { s.dac with cs := .high }
        trace := s.trace ++
          [.csLow s.inst.params.dacCsLine, .delayUs s.inst.params.tSettleUs, .spiXfer b0, .spiXfer b1,
           .delayUs s.inst.params.tSettleUs, .csHigh s.inst.params.dacCsLine] } := by
  simp [delayedFrame, transfer, raiseCs, settle, lowerCs, emit]

/-- All a fast frame does (40_dac.md R142). -/
theorem fastFrame_eq (b0 b1 : Byte) (s : State) :
    fastFrame b0 b1 s =
      { s with
        dac := { s.dac with cs := .high, irqInhibit := false }
        trace := s.trace ++
          [.csLow s.inst.params.dacCsLine, .irqOff, .spiXfer b0, .spiXfer b1, .irqOn,
           .csHigh s.inst.params.dacCsLine] } := by
  simp [fastFrame, transfer, raiseCs, allowIrq, inhibitIrq, lowerCs, emit]

/-! ## The guards -/

theorem requireBegun_of_begun {w : Word64} {s : State} {body : State → Result} (h : s.dac.begun = true) :
    requireBegun w s body = body s := by simp [requireBegun, h]

theorem requireBegun_of_not_begun {w : Word64} {s : State} {body : State → Result} (h : s.dac.begun = false) :
    requireBegun w s body = .next { s with fault := some (.dacNotBegun w) } := by simp [requireBegun, raiseFault, h]

theorem requireCodecBegun_of_some {w : Word64} {s : State} {a : Bits7} {body : Bits7 → State → Result}
    (h : s.codec.addr = some a) : requireCodecBegun w s body = body a s := by simp [requireCodecBegun, h]

theorem requireCodecBegun_of_none {w : Word64} {s : State} {body : Bits7 → State → Result}
    (h : s.codec.addr = none) :
    requireCodecBegun w s body = .next { s with fault := some (.codecNotBegun w) } := by
  simp [requireCodecBegun, raiseFault, h]

/-! ## The shadow -/

/-- The guarded write, cell by cell: cell i takes the value exactly when the register is i (41_codec.md R184). -/
theorem writeShadow_get (sh : Vector Bits9 10) (r : Bits7) (v : Bits9) (i : ShadowIndex) :
    (writeShadow sh r v)[i] = if r.toNat = i.val then v else sh[i] := by
  unfold writeShadow
  split
  · simp [Vector.getElem_set]
  · rename_i h
    have : r.toNat ≠ i.val := by omega
    simp [this]

/-- The guarded write as a write in bounds (41_codec.md R184). -/
theorem writeShadow_eq (sh : Vector Bits9 10) (r : Bits7) (v : Bits9) :
    writeShadow sh r v = sh.setIfInBounds r.toNat v := by
  apply Vector.ext
  intro i hi
  rw [Vector.getElem_setIfInBounds]
  exact writeShadow_get sh r v ⟨i, hi⟩

/-- A register outside 0..9 changes no cell (41_codec.md R199). -/
theorem writeShadow_of_ge {sh : Vector Bits9 10} {r : Bits7} {v : Bits9} (h : 10 ≤ r.toNat) :
    writeShadow sh r v = sh := by
  unfold writeShadow
  split
  · omega
  · rfl

@[simp] theorem toReg_toNat (i : ShadowIndex) : i.toReg.toNat = i.val := by
  simp [ShadowIndex.toReg]
  omega

/-! ## Register writes -/

/-- The event of one register write (41_codec.md R184). -/
def writeEvent (a : Bits7) (rv : Bits7 × Bits9) : Event := .i2cWrite a (regByte0 rv.1 rv.2) (regByte1 rv.2)

/-- All a list of register writes does (41_codec.md R184, R190). -/
theorem setRegs_eq (a : Bits7) (ws : List (Bits7 × Bits9)) (s : State) :
    setRegs a ws s =
      { s with
        codec := { s.codec with shadow := ws.foldl (fun sh rv => writeShadow sh rv.1 rv.2) s.codec.shadow }
        trace := s.trace ++ ws.map (writeEvent a) } := by
  induction ws generalizing s with
  | nil => simp [setRegs]
  | cons rv rest ih =>
    obtain ⟨r, v⟩ := rv
    rw [setRegs, ih]
    simp [setReg, emit, writeEvent]

/-- All the first-call part of `CODEC_BEGIN` does (41_codec.md R190). -/
theorem initBus_eq (s : State) :
    initBus s =
      { s with
        codec := { s.codec with initialized := true }
        trace := s.trace ++ (if s.codec.initialized then [] else [.i2cInit, .delayMs s.inst.params.tStartupMs]) } := by
  unfold initBus
  split
  · rename_i h
    cases s with
    | mk inst dac codec trace result fault refused host =>
      cases codec with
      | mk initialized addr shadow =>
        simp only at h
        simp [h]
  · simp [emit]

/-! ## Register-write bytes -/

/-- The register a register write carries, in byte0's high bits (41_codec.md R184). -/
theorem regByte0_reg (r : Bits7) (v : Bits9) : (regByte0 r v).extractLsb' 1 7 = r := by
  apply BitVec.eq_of_getLsbD_eq
  intro k hk
  interval_cases k <;> simp [regByte0]

/-- Bit 8 of the value, in byte0's low bit, and the rest in byte1 (41_codec.md R184). -/
theorem regBytes_val (r : Bits7) (v : Bits9) : ((regByte0 r v).extractLsb' 0 1 ++ regByte1 v : Bits9) = v := by
  apply BitVec.eq_of_getLsbD_eq
  intro k hk
  refine BitVec.getLsbD_append.trans ?_
  have : k < 9 := hk
  interval_cases k <;> simp [regByte0, regByte1]

end Sys2Proof.Machine
end

