-- ==== Sys2Proof/Laws/Step.lean ====
section
/-! SUPPORT. What a step can do, said once (the inversion lemma of `step`), and what `advance` does. -/

namespace Sys2Proof.Machine

theorem advance_eq_next {o : Result} {t : State} (h : advance o = .next t) : ∃ u, o = .next u ∧ t = moved u := by
  cases o with
  | next u => exact ⟨u, rfl, (Host.Outcome.next.inj h).symm⟩
  | fault f => cases h
  | refused r => cases h

@[simp] theorem moved_inst (t : State) : (moved t).inst = t.inst := by unfold moved; split <;> rfl
@[simp] theorem moved_dac (t : State) : (moved t).dac = t.dac := by unfold moved; split <;> rfl
@[simp] theorem moved_codec (t : State) : (moved t).codec = t.codec := by unfold moved; split <;> rfl
@[simp] theorem moved_trace (t : State) : (moved t).trace = t.trace := by unfold moved; split <;> rfl
@[simp] theorem moved_result (t : State) : (moved t).result = t.result := by unfold moved; split <;> rfl
@[simp] theorem moved_fault (t : State) : (moved t).fault = t.fault := by unfold moved; split <;> rfl
@[simp] theorem moved_refused (t : State) : (moved t).refused = t.refused := by unfold moved; split <;> rfl

/-- The block takes a step exactly when nothing stopped it (30_encoding.md R122). -/
theorem stopReason_eq_none {s : State} : stopReason s = none ↔ s.fault = none ∧ s.refused = none := by
  unfold stopReason
  cases s.fault <;> simp

/-- Everything a step that answers a next state can do: wait for a word, refuse one, or execute one. -/
theorem step_cases {s t : State} (h : step s = .next t) :
    (s.fault = none ∧ s.refused = none) ∧
    ((fetch s = none ∧ t = s) ∨
     (∃ w r, fetch s = some w ∧ decode s.inst.params w = .error r ∧ t = { s with refused := some r }) ∨
     (∃ w i u, fetch s = some w ∧ decode s.inst.params w = .ok i ∧ exec i s = .next u ∧ t = moved u)) := by
  unfold step at h
  cases hs : stopReason s with
  | some f => simp [hs] at h
  | none =>
    refine ⟨stopReason_eq_none.mp hs, ?_⟩
    cases hf : fetch s with
    | none => simp [hs, hf] at h; exact .inl ⟨rfl, h.symm⟩
    | some w =>
      cases hd : decode s.inst.params w with
      | error r =>
        simp [hs, hf, hd, takeRefusal] at h
        exact .inr (.inl ⟨w, r, rfl, hd, h.symm⟩)
      | ok i =>
        simp only [hs, hf, hd] at h
        obtain ⟨u, hu, rfl⟩ := advance_eq_next h
        exact .inr (.inr ⟨w, i, u, rfl, hd, hu, rfl⟩)

end Sys2Proof.Machine
end

