-- ==== Sys2Proof/Tests/Slice0.lean ====
section
/-! SUPPORT. The model's own tests: words and states read off 95_test_vectors.md, ill-formed operands, and one witness for
the hypotheses of every statement that has any. -/

namespace Sys2Proof.Tests

open Sys2Proof Sys2Proof.Machine Sys2Proof.Safety

/-! ## Test states -/

/-- The default parameters with numbers in place of the OPEN values. -/
def params : Config.Params where
  dacCsLine := ⟨7⟩
  spiMode := ⟨false, true⟩
  spiClockDivider := 4
  tSettleUs := 3
  tStartupMs := 100
  mclk := 12288000

/-- A block just powered up. -/
def fresh : State := State.boot { params }

/-- A block after `DAC_BEGIN`, with the trace left empty. -/
def begun : State := { fresh with dac := { begun := true, cs := .high, irqInhibit := false } }

/-- The same with both control flags given (program P5). -/
def begunFastDown : State :=
  { begun with inst := { params, ctrlFast := true, ctrlPowerDown := true } }

/-- A block with the low strap address recorded and every shadow cell `v`, the trace left empty. -/
def opened (v : Bits9) : State :=
  { fresh with codec := { initialized := true, addr := some 0x1A, shadow := Vector.replicate 10 v } }

/-- The trace of an answer. -/
def traceOf : Result → List Event
  | .next t => t.trace
  | .fault _ => []
  | .refused _ => []

/-- The shadow cells of an answer. -/
def cellsOf : Result → List Bits9
  | .next t => t.codec.shadow.toList
  | .fault _ => []
  | .refused _ => []

/-- The state of an answer. -/
def stateOf : Result → Option State
  | .next t => some t
  | .fault _ => none
  | .refused _ => none

/-! ## Well-formedness and instantiation -/

theorem test_params_legal : Config.Legal params := by decide
theorem test_addr_ill_formed : Instr.wf params (.codecBegin 0x1C 0 16 48000) = false := by decide
theorem test_fmt_ill_formed : Instr.wf params (.codecBegin 0x1A 4 16 48000) = false := by decide
theorem test_invol_ill_formed : Instr.wf params (.codecSetInputVolume 32) = false := by decide
theorem test_outvol_ill_formed : Instr.wf params (.codecSetOutputVolume 64) = false := by decide
theorem test_begin_well_formed : Instr.wf params (.codecBegin 0x1B 3 255 0) = true := by decide

/-- 00_scope.md R11 (a), R12, R13 broken in turn: no machine (60_exceptions.md R245). -/
theorem test_broken_parameters :
    State.instantiate { params with dacCmdBuffer := 0x11 } = none ∧
    State.instantiate { params with regActive := 8 } = none ∧
    State.instantiate { params with regReset := 9 } = none ∧
    State.instantiate { params with iwlShift := 1 } = none := by decide

/-! ## Decode: the words of 95_test_vectors.md, written out from 30_encoding.md R102 and R104 -/

theorem test_decode_words_dac :
    decode params 0x0100000000000000 = .ok .dacBegin ∧
    decode params 0x0200000000020ABC = .ok (.dacWriteData .aUpd 0x0ABC) ∧
    decode params 0x0300000001230456 = .ok (.dacWrite 0x123 0x456) ∧
    decode params 0x0400000000020ABC = .ok (.dacWriteDataFast .aUpd 0xABC) ∧
    decode params 0x0500000008000001 = .ok (.dacWriteFast 0x800 0x001) := by decide

theorem test_decode_words_codec :
    decode params 0x101A032000017700 = .ok (.codecBegin 0x1A 3 32 96000) ∧
    decode params 0x1100000000000000 = .ok .codecReset ∧
    decode params 0x1200000000000000 = .ok .codecSetActive ∧
    decode params 0x1300000000000000 = .ok .codecSetInactive ∧
    decode params 0x140000000000001F = .ok (.codecSetInputVolume 31) ∧
    decode params 0x150000000000003F = .ok (.codecSetOutputVolume 63) ∧
    decode params 0x16000000006400AB = .ok (.codecSet 100 0x0AB) ∧
    decode params 0x1700000000040000 = .ok (.codecGet 4) := by decide

/-- Vectors V-E1 to V-E8: unknown opcodes and reserved bits. -/
theorem test_refused_words :
    decode params 0x0000000000000000 = .error (.unknownOpcode 0x0000000000000000) ∧
    decode params 0xFF00000000000000 = .error (.unknownOpcode 0xFF00000000000000) ∧
    decode params 0x0600000000000000 = .error (.unknownOpcode 0x0600000000000000) ∧
    decode params 0x0100000000000001 = .error (.reservedBitSet 0x0100000000000001) ∧
    decode params 0x0200000000040000 = .error (.reservedBitSet 0x0200000000040000) ∧
    decode params 0x0300000100000000 = .error (.reservedBitSet 0x0300000100000000) ∧
    decode params 0x1100000000000001 = .error (.reservedBitSet 0x1100000000000001) ∧
    decode params 0x1700000000090001 = .error (.reservedBitSet 0x1700000000090001) := by decide

/-- Vectors V-E9 to V-E20: operand checks and their order. -/
theorem test_operand_checks :
    decode params 0x0200000000030000 = .error (.selReserved 0x0200000000030000) ∧
    decode params 0x1400000000000020 = .error (.volumeRange 0x1400000000000020) ∧
    decode params 0x1500000000000040 = .error (.volumeRange 0x1500000000000040) ∧
    decode params 0x1600000000800000 = .error (.registerRange 0x1600000000800000) ∧
    decode params 0x1600000000000200 = .error (.valueRange 0x1600000000000200) ∧
    decode params 0x1600000000C80258 = .error (.registerRange 0x1600000000C80258) ∧
    decode params 0x17000000000A0000 = .error (.getRange 0x17000000000A0000) ∧
    decode params 0x101C00100000BB80 = .error (.addressRange 0x101C00100000BB80) ∧
    decode params 0x101A04100000BB80 = .error (.formatRange 0x101A04100000BB80) ∧
    decode params 0x109A09100000BB80 = .error (.addressRange 0x109A09100000BB80) ∧
    decode params 0x101A00FF00000000 = .ok (.codecBegin 0x1A 0 255 0) := by decide

/-- The mask and match columns of 30_encoding.md R104. -/
theorem test_opcode_rows :
    Opcode.all.map Opcode.rowMask =
      [0xFFFFFFFFFFFFFFFF, 0xFFFFFFFFFFFC0000, 0xFFFFFFFF00000000, 0xFFFFFFFFFFFC0000, 0xFFFFFFFF00000000,
       0xFF00000000000000, 0xFFFFFFFFFFFFFFFF, 0xFFFFFFFFFFFFFFFF, 0xFFFFFFFFFFFFFFFF, 0xFFFFFFFFFFFFFF00,
       0xFFFFFFFFFFFFFF00, 0xFFFFFFFFFF000000, 0xFFFFFFFFFF00FFFF] ∧
    Opcode.all.map Opcode.row =
      [0x0100000000000000, 0x0200000000000000, 0x0300000000000000, 0x0400000000000000, 0x0500000000000000,
       0x1000000000000000, 0x1100000000000000, 0x1200000000000000, 0x1300000000000000, 0x1400000000000000,
       0x1500000000000000, 0x1600000000000000, 0x1700000000000000] := by decide

theorem test_decodeTableWord :
    decodeTableWord 64 0x17000000000A0000 = none ∧
    decodeTableWord 64 0x101A02100000BB80 = some (.codecBegin 0x1A 2 16 48000) := by decide

/-- The lines of program P2 and a line with a comment (30_encoding.md R125). -/
theorem test_assemble :
    assemble ["cdc.begin 0x1B, 8000, 24, 1", "cdc.set 0, 0x180", "; mute both", "cdc.invol 31", "cdc.outvol 45 ; loud",
        "cdc.active", "cdc.get 1"] =
      some [0x101B011800001F40, 0x1600000000000180, 0x140000000000001F, 0x150000000000002D, 0x1200000000000000,
        0x1700000000010000] ∧
    assembleLine "dac.wd aux, 1" = none ∧ assembleLine "cdc.reset 1" = none := by decide

/-! ## DAC bytes and frames -/

/-- Vectors V-D3, V-D4, V-D7, V-D8, V-D9. -/
theorem test_dac_bytes :
    (dacByte0 { params } 0x10 0xFFFF, dacByte1 0xFFFF) = (0x1F, 0xFF) ∧
    (dacByte0 { params } 0x80 0xF123, dacByte1 0xF123) = (0x81, 0x23) ∧
    (dacByte0 { params, ctrlFast := true, ctrlPowerDown := true } 0x00 0x0800, dacByte1 0x0800) = (0x68, 0x00) ∧
    (dacByte0 { params, ctrlFast := true } 0x80 0x0FFF, dacByte1 0x0FFF) = (0xCF, 0xFF) ∧
    (dacByte0 { params, ctrlPowerDown := true } 0x10 0x00AA, dacByte1 0x00AA) = (0x30, 0xAA) := by decide

/-- Vector V-D11. -/
theorem test_dacBegin :
    stateOf (exec .dacBegin fresh) = some { begun with
      trace := [.spiConfig .msbFirst ⟨false, true⟩ 4, .csOutput ⟨7⟩, .csHigh ⟨7⟩] } := by decide

/-- Vector V-D12. -/
theorem test_dacWriteData :
    traceOf (exec (.dacWriteData .aUpd 0x0ABC) begun) =
      [.csLow ⟨7⟩, .delayUs 3, .spiXfer 0x8A, .spiXfer 0xBC, .delayUs 3, .csHigh ⟨7⟩] := by decide

/-- Vector V-D16. -/
theorem test_dacWriteData_not_begun :
    stateOf (exec (.dacWriteData .bBuf 0x100) fresh) =
      some { fresh with fault := some (.dacNotBegun 0x0200000000000100) } := by decide

/-- Vector V-D13. -/
theorem test_dacWriteDataFast :
    stateOf (exec (.dacWriteDataFast .bBuf 0x123) begun) = some { begun with
      trace := [.csLow ⟨7⟩, .irqOff, .spiXfer 0x01, .spiXfer 0x23, .irqOn, .csHigh ⟨7⟩] } := by decide

/-- Vector V-D14. -/
theorem test_dacWrite :
    traceOf (exec (.dacWrite 0x123 0x456) begun) =
      [.csLow ⟨7⟩, .delayUs 3, .spiXfer 0x14, .spiXfer 0x56, .delayUs 3, .csHigh ⟨7⟩,
       .csLow ⟨7⟩, .delayUs 3, .spiXfer 0x81, .spiXfer 0x23, .delayUs 3, .csHigh ⟨7⟩] := by decide

/-- Vector V-D17. -/
theorem test_dacWrite_not_begun :
    stateOf (exec (.dacWrite 1 2) fresh) =
      some { fresh with fault := some (.dacNotBegun 0x0300000000010002) } := by decide

/-- Program P5. -/
theorem test_dacWriteFast :
    traceOf (exec (.dacWriteFast 0x800 0x001) begunFastDown) =
      [.csLow ⟨7⟩, .irqOff, .spiXfer 0x70, .spiXfer 0x01, .irqOn, .csHigh ⟨7⟩,
       .csLow ⟨7⟩, .irqOff, .spiXfer 0xE8, .spiXfer 0x00, .irqOn, .csHigh ⟨7⟩] := by decide

/-- Vectors V-D19 and V-D21 under the DAC observer. -/
theorem test_dac_observer :
    DacChip.after params .powerUp (traceOf (exec (.dacWrite 0x123 0x456) begun)) =
      { outA := some 0x123, outB := some 0x456, buf := some 0x456, ctl := some 0x00, window := .closed } ∧
    DacChip.after params { outA := some 0x123, outB := some 0x456, buf := some 0x7FF, ctl := none, window := .closed }
        (traceOf (exec (.dacWriteData .aUpd 0xABC) begun)) =
      { outA := some 0xABC, outB := some 0x7FF, buf := some 0x7FF, ctl := some 0x00, window := .closed } := by decide

/-- A window of one byte has no meaning (20_memory.md R85). -/
theorem test_dac_observer_malformed :
    DacChip.after params { outA := some 1, outB := some 2, buf := some 3, ctl := none, window := .closed }
      [.csLow ⟨7⟩, .spiXfer 0x01, .csHigh ⟨7⟩] = .powerUp := by decide

/-! ## Codec -/

/-- Vectors V-C3, V-C6, V-C8. -/
theorem test_register_bytes :
    (regByte0 9 0x100, regByte1 0x100) = (0x13, 0x00) ∧ (regByte0 64 0x080, regByte1 0x080) = (0x80, 0x80) ∧
    (regByte0 127 0x1FF, regByte1 0x1FF) = (0xFF, 0xFF) := by decide

/-- Vectors V-C15 to V-C21 and V-C23, V-C24. -/
theorem test_register_values :
    ifaceValue params 1 20 = 0x005 ∧ ifaceValue params 2 24 = 0x00A ∧ ifaceValue params 3 32 = 0x00F ∧
    ifaceValue params 3 8 = 0x003 ∧ ifaceValue params 0 33 = 0x000 ∧
    samplingValue params 8000 = 0x00C ∧ samplingValue params 32000 = 0x018 ∧ samplingValue params 96000 = 0x01C ∧
    samplingValue params 44100 = 0x000 := by decide

/-- Vectors V-C27, V-C28, V-C31, V-C32. -/
theorem test_volume_merge :
    volumeMerge 0x197 5 params.inVolMask = 0x185 ∧ volumeMerge 0x1E0 0 params.inVolMask = 0x1E0 ∧
    volumeMerge 0x179 63 params.outVolMask = 0x17F ∧ volumeMerge 0x1C0 32 params.outVolMask = 0x1E0 := by decide

/-- Vector V-C36. -/
theorem test_codecBegin :
    (traceOf (exec (.codecBegin 0x1A 2 16 48000) fresh)) =
      [.i2cInit, .delayMs 100, .i2cWrite 0x1A 0x1E 0x00, .i2cWrite 0x1A 0x0C 0x00, .i2cWrite 0x1A 0x0E 0x02,
       .i2cWrite 0x1A 0x00 0x00, .i2cWrite 0x1A 0x02 0x00, .i2cWrite 0x1A 0x04 0x00, .i2cWrite 0x1A 0x06 0x00,
       .i2cWrite 0x1A 0x08 0x10, .i2cWrite 0x1A 0x0A 0x00, .i2cWrite 0x1A 0x10 0x00] ∧
    cellsOf (exec (.codecBegin 0x1A 2 16 48000) fresh) =
      [0x000, 0x000, 0x000, 0x000, 0x010, 0x000, 0x000, 0x002, 0x000, 0x000] := by decide

/-- A second begin: no second initialization, ten writes to the new address, `REG_ACTIVE` kept (41_codec.md R190, R201). -/
theorem test_codecBegin_again :
    (traceOf (exec (.codecBegin 0x1B 3 32 96000) (opened 0x055))).length = 10 ∧
    cellsOf (exec (.codecBegin 0x1B 3 32 96000) (opened 0x055)) =
      [0x000, 0x000, 0x000, 0x000, 0x010, 0x000, 0x000, 0x00F, 0x01C, 0x055] := by decide

/-- Example of 41_codec.md R191, and that the shadow stays. -/
theorem test_codecReset :
    stateOf (exec .codecReset (opened 0x0AA)) =
      some { opened 0x0AA with trace := [.i2cWrite 0x1A 0x1E 0x00] } := by decide

/-- Vector V-C13. -/
theorem test_codecReset_not_begun :
    stateOf (exec .codecReset fresh) =
      some { fresh with fault := some (.codecNotBegun 0x1100000000000000) } := by decide

/-- Example of 41_codec.md R192. -/
theorem test_codecSetActive :
    traceOf (exec .codecSetActive (opened 0)) = [.i2cWrite 0x1A 0x12 0x01] ∧
    (cellsOf (exec .codecSetActive (opened 0)))[9]? = some 0x001 := by decide

/-- Example of 41_codec.md R193. -/
theorem test_codecSetInactive :
    traceOf (exec .codecSetInactive (opened 1)) = [.i2cWrite 0x1A 0x12 0x00] ∧
    (cellsOf (exec .codecSetInactive (opened 1)))[9]? = some 0x000 := by decide

/-- Example of 41_codec.md R194. -/
theorem test_codecSetInputVolume :
    traceOf (exec (.codecSetInputVolume 5) (opened 0x197)) = [.i2cWrite 0x1A 0x01 0x85, .i2cWrite 0x1A 0x03 0x85] := by
  decide

/-- The mask is a parameter (00_scope.md R10): with another, the merge follows it (41_codec.md R188). -/
theorem test_codecSetOutputVolume_other_mask :
    traceOf (exec (.codecSetOutputVolume 0x2F)
      { opened 0x1F0 with inst := { params := { params with outVolMask := 0x00F } } }) =
      [.i2cWrite 0x1A 0x05 0xFF, .i2cWrite 0x1A 0x07 0xFF] := by decide

/-- Vector V-C35: the two cells keep their different high bits. -/
theorem test_codecSetInputVolume_own_cells :
    (cellsOf (exec (.codecSetInputVolume 31)
      { opened 0 with codec := { (opened 0).codec with shadow := (Vector.replicate 10 0).set 0 0x180 } })).take 2 =
      [0x19F, 0x01F] := by decide

/-- Example of 41_codec.md R195. -/
theorem test_codecSetOutputVolume :
    traceOf (exec (.codecSetOutputVolume 63) (opened 0x179)) = [.i2cWrite 0x1A 0x05 0x7F, .i2cWrite 0x1A 0x07 0x7F] := by
  decide

/-- Vector V-C3. -/
theorem test_codecSet :
    traceOf (exec (.codecSet 9 0x100) (opened 0)) = [.i2cWrite 0x1A 0x13 0x00] ∧
    (cellsOf (exec (.codecSet 9 0x100) (opened 0)))[9]? = some 0x100 := by decide

/-- Vector V-C4: the first unshadowed index is sent and changes no cell. -/
theorem test_codecSet_unshadowed :
    traceOf (exec (.codecSet 10 0x055) (opened 0x0AA)) = [.i2cWrite 0x1A 0x14 0x55] ∧
    cellsOf (exec (.codecSet 10 0x055) (opened 0x0AA)) = List.replicate 10 0x0AA := by decide

/-- Vector V-C11: legal before any begin. -/
theorem test_codecGet : stateOf (exec (.codecGet 3) fresh) = some { fresh with result := some 0x000 } := by decide

/-- The codec observer: an acknowledged write at the strap address is latched, one without acknowledgement is not, and a
write to the reset register makes every register unknown (20_memory.md R87). -/
theorem test_codec_observer :
    (CodecChip.after params 0x1A (fun _ => true) .powerUp [.i2cWrite 0x1A 0x0F 0xFF]).reg 7 = some 0x1FF ∧
    (CodecChip.after params 0x1A (fun _ => false) .powerUp [.i2cWrite 0x1A 0x0F 0xFF]).reg 7 = none ∧
    (CodecChip.after params 0x1B (fun _ => true) .powerUp [.i2cWrite 0x1A 0x0F 0xFF]).reg 7 = none ∧
    (CodecChip.after params 0x1A (fun _ => true) .powerUp
      [.i2cWrite 0x1A 0x0F 0xFF, .i2cWrite 0x1A 0x1E 0x00]).reg 7 = none := by decide

/-- 20_memory.md R89: of two writes only the first is acknowledged, and the chip holds the shadow's value in its register
and nothing known in the other's. -/
theorem test_acked_write_is_mirrored :
    let chip := CodecChip.after params 0x1A (fun n => n == 0) .powerUp [.i2cWrite 0x1A 0x0F 0xFF, .i2cWrite 0x1A 0x10 0x0C]
    chip.reg 7 = some 0x1FF ∧ chip.reg 8 = none := by decide

/-- A window of one byte followed by a dual write, which makes the chip known again, is not understood
(20_memory.md R85). -/
theorem test_repaired_window_is_seen :
    ¬ DacChipUnderstood { begun with
      trace := [.csLow ⟨7⟩, .spiXfer 1, .csHigh ⟨7⟩] ++ traceOf (exec (.dacWrite 1 2) begun) } := by
  intro h
  have hk := (h { outA := some 1, outB := some 2, buf := some 3, ctl := none, window := .closed } rfl).2 ⟨rfl, rfl, rfl⟩ 3
  exact absurd hk.1 (by decide)

/-! ## Steps -/

/-- A presented word runs as the first command after reset, and the position moves (10_state.md R33). -/
theorem test_step_runs :
    stateOf (step (fresh.withFetchWord 64 0x1700000000030000)) =
      some { fresh with result := some 0x000, host := { program := [0x1700000000030000], k := 1 } } := by decide

/-- Program P3, second word: the fault leaves the position and the result alone, and stops the block. -/
theorem test_step_faults :
    stateOf (step (fresh.withFetchWord 64 0x0200000000000100)) =
      some { fresh with
        fault := some (.dacNotBegun 0x0200000000000100), host := { program := [0x0200000000000100], k := 0 } } := by decide

/-- Program P4, sixth word: a refusal sets only `refused`. -/
theorem test_step_refuses :
    stateOf (step ((opened 1).withFetchWord 64 0x17000000000A0000)) =
      some { (opened 1).withFetchWord 64 0x17000000000A0000 with
        refused := some (.getRange 0x17000000000A0000) } := by decide

/-- 20_memory.md R74: bits 15 down to 0. -/
theorem test_wire_bits :
    wireBits (wireWord 0x8A 0xBC) =
      [true, false, false, false, true, false, true, false, true, false, true, true, true, true, false, false] := by decide

/-! ## Witnesses: the hypotheses of the statements can be met -/

/-- DecodeOfEncodedCommand, EncodeOfDecodedWord at the edge of a checked range. -/
theorem witness_wellFormed :
    Instr.wf params (.codecSetOutputVolume 63) = true ∧ Instr.wf params (.codecSetInputVolume 31) = true ∧
    decode params 0x150000000000003F = .ok (.codecSetOutputVolume 63) := by decide

/-- BrokenParametersAreRefused: each clause's hypothesis. -/
theorem witness_parameters :
    ¬ Config.FitsR11 { params with dacCmdField := 0xF0 } ∧ ¬ Config.FitsR12 { params with regReset := 9 } ∧
    ¬ Config.FitsR13 { params with srShift := 6 } ∧ Config.Legal params := by decide

/-- UnassignedOpcodesRefused, ReservedBitsRefused: both ends of the unassigned ranges, and a reserved bit. -/
theorem witness_opcodes :
    opByte 0x0F00000000000000 = 0x0F#8 ∧ 0x06#8 ≤ 0x0F#8 ∧ 0x18#8 ≤ opByte 0x1800000000000000 ∧
    opByte 0x17000000FF000000 = Opcode.codecGet.code ∧
    (0x17000000FF000000 : Word64) &&& Opcode.codecGet.format.reserved ≠ 0#64 := by decide

/-- SetWordsDecode, VolumeWordsDecode, GetWordsDecode: the values on both sides of each limit. -/
theorem witness_ranges :
    (127 : Byte).toNat ≤ 127 ∧ 127 < (128 : Byte).toNat ∧ (511 : BitVec 16).toNat ≤ 511 ∧
    511 < (512 : BitVec 16).toNat ∧ (31 : Byte).toNat ≤ 31 ∧ 31 < (32 : Byte).toNat ∧ (63 : Byte).toNat ≤ 63 ∧
    63 < (64 : Byte).toNat ∧ (9 : Byte).toNat < 10 ∧ 10 ≤ (10 : Byte).toNat := by decide

/-- BeginWordsDecode: a strap address and another, and the formats on both sides of the limit. -/
theorem witness_begin_words :
    (0x1B : Byte) = params.codecAddrHigh.setWidth 8 ∧
    ¬ ((0x9A : Byte) = params.codecAddrLow.setWidth 8 ∨ (0x9A : Byte) = params.codecAddrHigh.setWidth 8) ∧
    2 ^ params.fmtBits ≤ (4 : Byte).toNat ∧ (3 : Byte).toNat < 2 ^ params.fmtBits := by decide

/-- The DAC effects and the statements about a begun unit: both branches. -/
theorem witness_dac : begun.dac.begun = true ∧ fresh.dac.begun = false ∧ Config.Legal begun.inst.params := by decide

/-- DualWriteReachesBothChannels, SingleWriteOnTheChip: a begun unit watched by a chip with no window open, and a command
that completes there. -/
theorem witness_observed :
    Config.Legal begun.inst.params ∧ begun.dac.begun = true ∧
    (DacChip.after begun.inst.params .powerUp begun.trace).window = .closed ∧
    (stateOf (exec (.dacWriteFast 1 2) begun)).isSome = true := by decide

/-- The codec effects: both branches, a legal parameter set and the limits of the volume operands. -/
theorem witness_codec :
    (opened 0x1FF).codec.addr = some 0x1A ∧ fresh.codec.addr = none ∧ Config.Legal (opened 0x1FF).inst.params ∧
    (opened 0x1FF).inst.params.inVolMask = 0x01F ∧ (opened 0x1FF).inst.params.outVolMask = 0x03F ∧
    (31 : Byte).toNat ≤ 31 ∧ (63 : Byte).toNat ≤ 63 ∧ 10 ≤ (10 : Bits7).toNat := by decide

/-- InterfaceFormatFields, SamplingField, DacBytesRoundTrip. -/
theorem witness_fields : Config.Legal params ∧ fmtLegal params 3 = true ∧ 8 < 9 := by decide

/-- A step with a word, a step without one, and a stopped block (StepRunsDecodedCommand, RefusedWordStopsTheBlock,
BlockWaitsForAWord, LiveBlockAlwaysSteps, StoppedBlockTakesNoStep, PositionMovesOnCompletion,
TraceGrowsAndInstantiationStays). -/
theorem witness_live : Live (fresh.load [0x0100000000000000]) ∧
    (fresh.load [0x0100000000000000]).host.program[(fresh.load [0x0100000000000000]).host.k]? = some 0x0100000000000000 ∧
    decode (fresh.load [0x0100000000000000]).inst.params 0x0100000000000000 = .ok .dacBegin ∧
    (stateOf (step (fresh.load [0x0100000000000000]))).isSome = true ∧
    decode fresh.inst.params 0 = .error (.unknownOpcode 0) ∧ fresh.host.program.length ≤ fresh.host.k ∧
    { fresh with fault := some (.dacNotBegun 0) }.fault ≠ none := by
  refine ⟨⟨rfl, rfl⟩, ?_⟩
  decide

/-- FaultIsPrecise, ResultPortWrittenOnCompletion, UnitsAreIndependent: a command that faults and two that complete in
states of the same unit. -/
theorem witness_faults :
    fresh.fault = none ∧ stateOf (exec .codecReset fresh) =
      some { fresh with fault := some (.codecNotBegun 0x1100000000000000) } ∧
    fresh.inst = (opened 5).inst ∧ fresh.dac = (opened 5).dac ∧ fresh.fault = (opened 5).fault ∧
    (stateOf (exec .dacBegin fresh)).isSome = true ∧ (stateOf (exec .dacBegin (opened 5))).isSome = true := by decide

/-- A state meeting the invariants about the state's fields, from which a step answers a next state. -/
theorem witness_state_invariants :
    let s := fresh.load [0x101B011800001F40]
    DacAtRest s ∧ AddrMatchesInit s ∧ OneBusInit s ∧ OneStopReason s ∧ PositionInProgram s ∧ WellFramed s ∧
      Config.Legal s.inst.params ∧ (stateOf (step s)).isSome = true := by
  refine ⟨⟨rfl, rfl⟩, rfl, ⟨rfl, rfl⟩, .inl rfl, Nat.zero_le _, rfl, ?_⟩
  decide

/-- The same for the invariants about the trace and the chips: they hold of a block that has sent nothing. -/
theorem witness_trace_invariants :
    let s := fresh.load [0x101B011800001F40]
    StrapAddressesOnly s ∧ DacChipUnderstood s ∧ ShadowIsLastSent s ∧ AckedWriteIsMirrored 0x1B (fun n => n == 3) s ∧
      ShadowMirrorsChip 0x1B s := by
  intro s
  refine ⟨⟨fun a h => ?_, fun a b0 b1 h => ?_⟩, fun o h => ⟨h, fun hk n => ?_⟩, ?_, fun i pre later b0 b1 h => ?_,
    fun _ => ?_⟩
  · exact absurd (show (none : Option Bits7) = some a from h) (by simp)
  · exact absurd (show Event.i2cWrite a b0 b1 ∈ [] from h) List.not_mem_nil
  · show DacChipKnown (DacChip.after s.inst.params o ([].take n))
    rw [List.take_nil]
    exact hk
  · show ∀ i : ShadowIndex, s.codec.shadow[i] = lastSent i s.trace
    decide
  · exact absurd (show ([] : List Event) = pre ++ _ from h) (by simp)
  · show ∀ i : ShadowIndex,
      (ackedChip 0x1B s).reg i.toReg = none ∨ (ackedChip 0x1B s).reg i.toReg = some s.codec.shadow[i]
    decide

end Sys2Proof.Tests
end

/-! ## Commands confined to one unit (00_scope.md R3)

An operation is confined to a unit when it leaves the other unit alone and, run from two states that agree on the unit,
ends in two states that agree on it, having appended the same events of that unit. The property is kept by composition
and by reading the unit, so each command's follows from those of the model's shared operations. -/

namespace Sys2Proof.Proofs

open Sys2Proof.Machine

/-- Two states agree on all that a command of unit `u` may read or is compared by: the instantiation, the fault record
and the unit's own state. -/
structure AgreeOn (u : CmdUnit) (s₁ s₂ : State) : Prop where
  inst : s₁.inst = s₂.inst
  fault : s₁.fault = s₂.fault
  dac : u = .dac → s₁.dac = s₂.dac
  codec : u = .codec → s₁.codec = s₂.codec

theorem AgreeOn.refl (u : CmdUnit) (s : State) : AgreeOn u s s := ⟨rfl, rfl, fun _ => rfl, fun _ => rfl⟩

/-- The operation `f` reads, writes and signals only unit `u`. -/
structure ConfinedTo (u : CmdUnit) (f : State → State) : Prop where
  keepsCodec : u = .dac → ∀ s, (f s).codec = s.codec
  keepsDac : u = .codec → ∀ s, (f s).dac = s.dac
  agree : ∀ s₁ s₂, AgreeOn u s₁ s₂ → AgreeOn u (f s₁) (f s₂)
  events : ∀ s₁ s₂, AgreeOn u s₁ s₂ → ∃ es : List Event,
    (∀ e ∈ es, e.unit = u) ∧ (f s₁).trace = s₁.trace ++ es ∧ (f s₂).trace = s₂.trace ++ es

namespace ConfinedTo

variable {u : CmdUnit} {f g : State → State}

theorem comp (hg : ConfinedTo u g) (hf : ConfinedTo u f) : ConfinedTo u fun s => g (f s) where
  keepsCodec hu s := (hg.keepsCodec hu (f s)).trans (hf.keepsCodec hu s)
  keepsDac hu s := (hg.keepsDac hu (f s)).trans (hf.keepsDac hu s)
  agree s₁ s₂ h := hg.agree _ _ (hf.agree s₁ s₂ h)
  events s₁ s₂ h := by
    obtain ⟨es, hes, hf₁, hf₂⟩ := hf.events s₁ s₂ h
    obtain ⟨es', hes', hg₁, hg₂⟩ := hg.events _ _ (hf.agree s₁ s₂ h)
    refine ⟨es ++ es', fun e he => ?_, ?_, ?_⟩
    · exact (List.mem_append.mp he).elim (hes e) (hes' e)
    · rw [hg₁, hf₁, List.append_assoc]
    · rw [hg₂, hf₂, List.append_assoc]

/-- The operation may depend on any value `r s` that the unit and the instantiation determine. -/
theorem ofRead {α : Type} {r : State → α} {k : α → State → State}
    (hr : ∀ s₁ s₂, AgreeOn u s₁ s₂ → r s₁ = r s₂) (hk : ∀ a, ConfinedTo u (k a)) :
    ConfinedTo u fun s => k (r s) s where
  keepsCodec hu s := (hk (r s)).keepsCodec hu s
  keepsDac hu s := (hk (r s)).keepsDac hu s
  agree s₁ s₂ h := by
    rw [hr s₁ s₂ h]
    exact (hk _).agree s₁ s₂ h
  events s₁ s₂ h := by
    rw [hr s₁ s₂ h]
    exact (hk _).events s₁ s₂ h

theorem ofInst {k : Config.Instantiation → State → State} (hk : ∀ c, ConfinedTo u (k c)) :
    ConfinedTo u fun s => k s.inst s :=
  ofRead (fun _ _ h => h.inst) hk

/-! ### Updates of the state -/

/-- An operation that sets the DAC unit's state and emits events, both computed from what the unit may read. -/
theorem ofDacUpdate {d : State → DacState} {es : State → List Event}
    (hf : ∀ s, f s = { s with dac := d s, trace := s.trace ++ es s })
    (hread : ∀ s₁ s₂, AgreeOn .dac s₁ s₂ → d s₁ = d s₂ ∧ es s₁ = es s₂)
    (hes : ∀ s, ∀ e ∈ es s, e.unit = .dac) : ConfinedTo .dac f := by
  obtain rfl : f = _ := funext hf
  exact {
    keepsCodec := fun _ _ => rfl
    keepsDac := nofun
    agree := fun s₁ s₂ h => ⟨h.inst, h.fault, fun _ => (hread s₁ s₂ h).1, nofun⟩
    events := fun s₁ s₂ h => ⟨es s₁, hes s₁, rfl, by rw [(hread s₁ s₂ h).2]⟩ }

/-- An operation that sets the codec unit's state and emits events, both computed from what the unit may read. -/
theorem ofCodecUpdate {c : State → CodecState} {es : State → List Event}
    (hf : ∀ s, f s = { s with codec := c s, trace := s.trace ++ es s })
    (hread : ∀ s₁ s₂, AgreeOn .codec s₁ s₂ → c s₁ = c s₂ ∧ es s₁ = es s₂)
    (hes : ∀ s, ∀ e ∈ es s, e.unit = .codec) : ConfinedTo .codec f := by
  obtain rfl : f = _ := funext hf
  exact {
    keepsCodec := nofun
    keepsDac := fun _ _ => rfl
    agree := fun s₁ s₂ h => ⟨h.inst, h.fault, nofun, fun _ => (hread s₁ s₂ h).1⟩
    events := fun s₁ s₂ h => ⟨es s₁, hes s₁, rfl, by rw [(hread s₁ s₂ h).2]⟩ }

/-- The result port belongs to neither unit. -/
theorem setResult (v : State → Option Bits9) : ConfinedTo u fun s => { s with result := v s } where
  keepsCodec _ _ := rfl
  keepsDac _ _ := rfl
  agree _ _ h := ⟨h.inst, h.fault, h.dac, h.codec⟩
  events _ _ _ := ⟨[], by simp⟩

theorem setFault (r : FaultReason) : ConfinedTo u fun s => { s with fault := some r } where
  keepsCodec _ _ := rfl
  keepsDac _ _ := rfl
  agree _ _ h := ⟨h.inst, rfl, h.dac, h.codec⟩
  events _ _ _ := ⟨[], by simp⟩

theorem emit_confined (e : Event) (he : e.unit = u) : ConfinedTo u (emit e) where
  keepsCodec _ _ := rfl
  keepsDac _ _ := rfl
  agree _ _ h := ⟨h.inst, h.fault, h.dac, h.codec⟩
  events _ _ _ := ⟨[e], by simpa using he, rfl, rfl⟩

end ConfinedTo

open ConfinedTo

/-! ### The DAC unit's operations -/

theorem raiseCs_confined : ConfinedTo .dac raiseCs :=
  ofDacUpdate (fun _ => rfl) (fun _ _ h => by simp [h.inst, h.dac rfl]) (by simp [Event.unit])

theorem setBegun_confined : ConfinedTo .dac fun s => { s with dac := { s.dac with begun := true } } :=
  ofDacUpdate (d := fun s => { s.dac with begun := true }) (es := fun _ => []) (fun s => by simp)
    (fun _ _ h => by simp [h.dac rfl]) (by simp)

theorem delayedFrame_confined (b0 b1 : Byte) : ConfinedTo .dac (delayedFrame b0 b1) :=
  ofDacUpdate (delayedFrame_eq b0 b1) (fun _ _ h => by simp [h.inst, h.dac rfl]) (by simp [Event.unit])

theorem fastFrame_confined (b0 b1 : Byte) : ConfinedTo .dac (fastFrame b0 b1) :=
  ofDacUpdate (fastFrame_eq b0 b1) (fun _ _ h => by simp [h.inst, h.dac rfl]) (by simp [Event.unit])

theorem sendDac_confined {frame : Byte → Byte → State → State} (hframe : ∀ b0 b1, ConfinedTo .dac (frame b0 b1))
    (code : Byte) (value : BitVec 16) : ConfinedTo .dac (sendDac frame code value) :=
  ofInst fun c => hframe (dacByte0 c code value) (dacByte1 value)

/-! ### The codec unit's operations -/

theorem setRegs_confined (a : Bits7) (ws : List (Bits7 × Bits9)) : ConfinedTo .codec (setRegs a ws) :=
  ofCodecUpdate (setRegs_eq a ws) (fun _ _ h => by simp [h.codec rfl]) fun _ _ he => by
    obtain ⟨rv, -, rfl⟩ := List.mem_map.mp he
    rfl

theorem setReg_confined (a r : Bits7) (v : Bits9) : ConfinedTo .codec (setReg a r v) :=
  setRegs_confined a [(r, v)]

theorem mergeVolume_confined (a : Bits7) (i : ShadowIndex) (vol : Byte) (mask : Bits9) :
    ConfinedTo .codec (mergeVolume a i vol mask) :=
  ofRead (r := fun s => readShadow s i) (fun _ _ h => by simp [readShadow, h.codec rfl]) fun old =>
    setReg_confined a i.toReg (volumeMerge old vol mask)

theorem initBus_confined : ConfinedTo .codec initBus := by
  refine ofCodecUpdate initBus_eq (fun _ _ h => by simp [h.inst, h.codec rfl]) fun s => ?_
  split <;> simp [Event.unit]

theorem recordAddr_confined (a : Bits7) : ConfinedTo .codec (recordAddr a) :=
  ofCodecUpdate (c := fun s => { s.codec with addr := some a }) (es := fun _ => []) (fun s => by simp [recordAddr])
    (fun _ _ h => by simp [h.codec rfl]) (by simp)

/-! ### Commands -/

/-- The command's meaning `m` answers a next state in every state, by an operation confined to unit `u`. -/
def ActsWithin (u : CmdUnit) (m : State → Result) : Prop :=
  ∃ f : State → State, (∀ s, m s = .next (f s)) ∧ ConfinedTo u f

namespace ActsWithin

variable {u : CmdUnit}

theorem ofRead {α : Type} {r : State → α} {k : α → State → Result}
    (hr : ∀ s₁ s₂, AgreeOn u s₁ s₂ → r s₁ = r s₂) (hk : ∀ a, ActsWithin u (k a)) :
    ActsWithin u fun s => k (r s) s := by
  choose f hf hconf using hk
  exact ⟨fun s => f (r s) s, fun s => hf (r s) s, ConfinedTo.ofRead hr hconf⟩

theorem ofInst {k : Config.Instantiation → State → Result} (hk : ∀ c, ActsWithin u (k c)) :
    ActsWithin u fun s => k s.inst s :=
  ofRead (fun _ _ h => h.inst) hk

theorem raiseFault (r : FaultReason) : ActsWithin u (Machine.raiseFault r) := ⟨_, fun _ => rfl, setFault r⟩

theorem complete {f : State → State} (hf : ConfinedTo u f) : ActsWithin u fun s => Machine.complete (f s) :=
  ⟨_, fun _ => rfl, (setResult fun _ => none).comp hf⟩

theorem requireBegun {body : State → Result} (w : Word64) (hbody : ActsWithin .dac body) :
    ActsWithin .dac fun s => Machine.requireBegun w s body := by
  refine ofRead (r := fun s => s.dac.begun)
    (k := fun begun s => if begun then body s else Machine.raiseFault (.dacNotBegun w) s)
    (fun _ _ h => by rw [h.dac rfl]) fun begun => ?_
  cases begun with
  | false => exact raiseFault _
  | true => exact hbody

theorem requireCodecBegun {body : Bits7 → State → Result} (w : Word64) (hbody : ∀ a, ActsWithin .codec (body a)) :
    ActsWithin .codec fun s => Machine.requireCodecBegun w s body := by
  refine ofRead (r := fun s => s.codec.addr)
    (k := fun addr s => match addr with | none => Machine.raiseFault (.codecNotBegun w) s | some a => body a s)
    (fun _ _ h => by rw [h.codec rfl]) fun addr => ?_
  cases addr with
  | none => exact raiseFault _
  | some a => exact hbody a

section
variable {frame : Byte → Byte → State → State} (hframe : ∀ b0 b1, ConfinedTo .dac (frame b0 b1))
include hframe

theorem dacWriteOne (sel : DacSel) (value : BitVec 16) : ActsWithin .dac (Machine.dacWriteOne frame sel value) :=
  ofInst fun c => complete (sendDac_confined hframe (cmdCode c.params sel) value)

theorem dacWriteTwo (va vb : BitVec 16) : ActsWithin .dac (Machine.dacWriteTwo frame va vb) :=
  ofInst fun c => complete ((sendDac_confined hframe c.params.dacCmdAUpdateB va).comp
    (sendDac_confined hframe c.params.dacCmdBuffer vb))

end

theorem dacBegin : ActsWithin .dac execDacBegin :=
  ofInst fun c => complete (setBegun_confined.comp (raiseCs_confined.comp
    ((emit_confined (.csOutput c.params.dacCsLine) rfl).comp
      (emit_confined (.spiConfig .msbFirst c.params.spiMode c.params.spiClockDivider) rfl))))

end ActsWithin

open ActsWithin in
/-- Every command acts within its own unit (00_scope.md R3). -/
theorem exec_actsWithin (i : Instr) : ActsWithin i.opcode.unit (exec i) := by
  cases i with
  | dacBegin => exact dacBegin
  | dacWriteData sel value => exact requireBegun _ (dacWriteOne delayedFrame_confined sel value)
  | dacWrite va vb => exact requireBegun _ (dacWriteTwo delayedFrame_confined va vb)
  | dacWriteDataFast sel value => exact requireBegun _ (dacWriteOne fastFrame_confined sel value)
  | dacWriteFast va vb => exact requireBegun _ (dacWriteTwo fastFrame_confined va vb)
  | codecBegin addr fmt wl rate =>
    exact ofInst fun c => complete ((setRegs_confined addr (beginWrites c.params fmt wl rate)).comp
      (initBus_confined.comp (recordAddr_confined addr)))
  | codecReset => exact requireCodecBegun _ fun a => ofInst fun c => complete (setReg_confined a c.params.regReset _)
  | codecSetActive =>
    exact requireCodecBegun _ fun a => ofInst fun c => complete (setReg_confined a c.params.regActive.toReg _)
  | codecSetInactive =>
    exact requireCodecBegun _ fun a => ofInst fun c => complete (setReg_confined a c.params.regActive.toReg _)
  | codecSetInputVolume vol =>
    exact requireCodecBegun _ fun a => ofInst fun c => complete
      ((mergeVolume_confined a c.params.regRightLineIn vol c.params.inVolMask).comp
        (mergeVolume_confined a c.params.regLeftLineIn vol c.params.inVolMask))
  | codecSetOutputVolume vol =>
    exact requireCodecBegun _ fun a => ofInst fun c => complete
      ((mergeVolume_confined a c.params.regRightHpOut vol c.params.outVolMask).comp
        (mergeVolume_confined a c.params.regLeftHpOut vol c.params.outVolMask))
  | codecSet reg val => exact requireCodecBegun _ fun a => complete (setReg_confined a reg val)
  | codecGet reg => exact ⟨_, fun _ => rfl, setResult fun s => some (readShadow s reg)⟩

/-- Settles O49: every command acts within its own unit, so one run of it, and two runs of it from states that agree on
that unit, are as stated. -/
theorem unitsAreIndependent : Obligations.UnitsAreIndependent := by
  unfold Obligations.UnitsAreIndependent
  refine ⟨fun i s t hexec => ?_, fun i s₁ s₂ t₁ t₂ hinst hfault hdac hcodec hexec₁ hexec₂ => ?_⟩
  · obtain ⟨f, hf, hconf⟩ := exec_actsWithin i
    obtain rfl : f s = t := Host.Outcome.next.inj ((hf s).symm.trans hexec)
    obtain ⟨es, hunit, htrace, -⟩ := hconf.events s s (AgreeOn.refl _ s)
    exact ⟨es, htrace, hunit, fun hu => hconf.keepsCodec hu s, fun hu => hconf.keepsDac hu s⟩
  · obtain ⟨f, hf, hconf⟩ := exec_actsWithin i
    obtain rfl : f s₁ = t₁ := Host.Outcome.next.inj ((hf s₁).symm.trans hexec₁)
    obtain rfl : f s₂ = t₂ := Host.Outcome.next.inj ((hf s₂).symm.trans hexec₂)
    have hagree : AgreeOn i.opcode.unit s₁ s₂ := ⟨hinst, hfault, hdac, hcodec⟩
    obtain ⟨es, -, htrace₁, htrace₂⟩ := hconf.events s₁ s₂ hagree
    have hagree' := hconf.agree s₁ s₂ hagree
    exact ⟨hagree'.fault, by simp [htrace₁, htrace₂], hagree'.dac, hagree'.codec⟩

end Sys2Proof.Proofs

/-! ## What a command and a step can do, said once

A command that completes is a sequence of unit operations (the DAC's begin and frames, opening the codec bus, a register
write), each under the guard it is made under, and then the result port; a command that faults only records it. A
property of the units that the ports do not touch is kept by every step as soon as each unit operation keeps it. -/

namespace Sys2Proof.Proofs

open Sys2Proof.Machine Sys2Proof.Safety

/-! ### Unit operations -/

/-- The operations the DAC commands are made of (40_dac.md R146 to R150). -/
inductive DacOp : State → State → Prop where
  | begin (s : State) : DacOp s
      { s with
        dac := { s.dac with begun := true, cs := .high }
        trace := s.trace ++
          [.spiConfig .msbFirst s.inst.params.spiMode s.inst.params.spiClockDivider,
           .csOutput s.inst.params.dacCsLine, .csHigh s.inst.params.dacCsLine] }
  | delayedFrame {s : State} (hbegun : s.dac.begun = true) (sel : DacSel) (value : BitVec 16) :
      DacOp s (sendDac delayedFrame (cmdCode s.inst.params sel) value s)
  | fastFrame {s : State} (hbegun : s.dac.begun = true) (sel : DacSel) (value : BitVec 16) :
      DacOp s (sendDac fastFrame (cmdCode s.inst.params sel) value s)

/-- The operations the codec commands are made of (41_codec.md R184, R190): only `CODEC_BEGIN` opens the bus, and a
register write goes to the recorded address. -/
inductive CodecOp : Instr → State → State → Prop where
  | openBus (addr : Bits7) (fmt wl : Byte) (rate : BitVec 32) (s : State) :
      CodecOp (.codecBegin addr fmt wl rate) s (initBus (recordAddr addr s))
  | setReg {i : Instr} {s : State} {a : Bits7} (haddr : s.codec.addr = some a) (r : Bits7) (v : Bits9) :
      CodecOp i s (setReg a r v s)

/-- An operation of either unit, made by command `i`. -/
inductive UnitOp (i : Instr) (s t : State) : Prop where
  | dac (hop : DacOp s t)
  | codec (hop : CodecOp i s t)

/-- The operations of one command, in order. -/
abbrev UnitOps (i : Instr) : State → State → Prop := Relation.ReflTransGen (UnitOp i)

theorem DacOp.codec_eq {s t : State} (hop : DacOp s t) : t.codec = s.codec := by
  cases hop <;> rfl

theorem DacOp.begun_of_begun {s t : State} (hop : DacOp s t) (hs : s.dac.begun = true) : t.dac.begun = true := by
  cases hop with
  | begin => rfl
  | delayedFrame | fastFrame => exact hs

theorem DacOp.trace_append {s t : State} (hop : DacOp s t) :
    ∃ es : List Event, t.trace = s.trace ++ es ∧ ∀ e ∈ es, e.unit = .dac := by
  cases hop with
  | begin => exact ⟨_, rfl, by simp [Event.unit]⟩
  | delayedFrame => exact ⟨_, by rw [sendDac, delayedFrame_eq], by simp [Event.unit]⟩
  | fastFrame => exact ⟨_, by rw [sendDac, fastFrame_eq], by simp [Event.unit]⟩

theorem CodecOp.dac_eq {i : Instr} {s t : State} (hop : CodecOp i s t) : t.dac = s.dac := by
  cases hop with
  | openBus => simp [initBus_eq]
  | setReg => rfl

theorem UnitOp.trace_append {i : Instr} {s t : State} (hop : UnitOp i s t) :
    ∃ es : List Event, t.trace = s.trace ++ es := by
  cases hop with
  | dac hop =>
    obtain ⟨es, htrace, -⟩ := hop.trace_append
    exact ⟨es, htrace⟩
  | codec hop =>
    cases hop with
    | openBus => exact ⟨_, by rw [initBus_eq, recordAddr_trace]⟩
    | setReg => exact ⟨_, rfl⟩

/-- What no unit operation writes: the instantiation, the stop records and the host's side of the port. -/
structure SamePorts (s t : State) : Prop where
  inst : t.inst = s.inst
  fault : t.fault = s.fault
  refused : t.refused = s.refused
  host : t.host = s.host

theorem UnitOp.samePorts {i : Instr} {s t : State} (hop : UnitOp i s t) : SamePorts s t := by
  cases hop with
  | dac hop => cases hop <;> exact ⟨rfl, rfl, rfl, rfl⟩
  | codec hop =>
    cases hop with
    | openBus => rw [initBus_eq]; exact ⟨rfl, rfl, rfl, rfl⟩
    | setReg => exact ⟨rfl, rfl, rfl, rfl⟩

theorem samePorts_of_unitOps {i : Instr} {s t : State} (hops : UnitOps i s t) : SamePorts s t := by
  induction hops with
  | refl => exact ⟨rfl, rfl, rfl, rfl⟩
  | tail _ hop ih =>
    have h := hop.samePorts
    exact ⟨h.inst.trans ih.inst, h.fault.trans ih.fault, h.refused.trans ih.refused, h.host.trans ih.host⟩

/-- A list of register writes at the recorded address is a sequence of unit operations. -/
theorem unitOps_setRegs {i : Instr} {a : Bits7} (ws : List (Bits7 × Bits9)) {s : State}
    (haddr : s.codec.addr = some a) : UnitOps i s (setRegs a ws s) := by
  induction ws generalizing s with
  | nil => exact .refl
  | cons rv rest ih => exact .head (.codec (.setReg haddr rv.1 rv.2)) (ih haddr)

/-! ### Commands -/

/-- What a completed command writes to the result port (10_state.md R32). -/
def resultOf : Instr → State → Option Bits9
  | .codecGet c, s => some (readShadow s c)
  | _, _ => none

/-- All a command can answer: it faults, which only records the fault, or it completes. -/
inductive CommandEffect (i : Instr) (s : State) : Result → Prop where
  | faulted {r : FaultReason} (hr : r = .dacNotBegun (encode i) ∨ r = .codecNotBegun (encode i)) :
      CommandEffect i s (.next { s with fault := some r })
  | completed {u : State} (hops : UnitOps i s u) : CommandEffect i s (.next { u with result := resultOf i s })

namespace CommandEffect

variable {i : Instr} {s : State}

theorem requireBegun {body : State → Result} (hbody : s.dac.begun = true → CommandEffect i s (body s)) :
    CommandEffect i s (Machine.requireBegun (encode i) s body) := by
  cases hbegun : s.dac.begun with
  | false => rw [requireBegun_of_not_begun hbegun]; exact .faulted (.inl rfl)
  | true => rw [requireBegun_of_begun hbegun]; exact hbody hbegun

theorem requireCodecBegun {body : Bits7 → State → Result}
    (hbody : ∀ a, s.codec.addr = some a → CommandEffect i s (body a s)) :
    CommandEffect i s (Machine.requireCodecBegun (encode i) s body) := by
  cases haddr : s.codec.addr with
  | none => rw [requireCodecBegun_of_none haddr]; exact .faulted (.inr rfl)
  | some a => rw [requireCodecBegun_of_some haddr]; exact hbody a haddr

/-- A command other than `CODEC_GET` completes. -/
theorem complete {u : State} (hops : UnitOps i s u) (hi : resultOf i s = none) :
    CommandEffect i s (Machine.complete u) := by
  have h := CommandEffect.completed hops
  rwa [hi] at h

/-- A dual write by either framing: the second frame finds the unit begun and the parameters unchanged. -/
theorem dacWriteTwo {frame : Byte → Byte → State → State}
    (hframe : ∀ {u : State}, u.dac.begun = true → ∀ (sel : DacSel) (value : BitVec 16),
      DacOp u (sendDac frame (cmdCode u.inst.params sel) value u))
    (va vb : BitVec 16) (hi : resultOf i s = none) (hbegun : s.dac.begun = true) :
    CommandEffect i s (Machine.dacWriteTwo frame va vb s) := by
  have first : UnitOp i s _ := .dac (hframe hbegun .buf vb)
  have second := hframe ((hframe hbegun .buf vb).begun_of_begun hbegun) .aUpd va
  rw [first.samePorts.inst] at second
  exact complete ((Relation.ReflTransGen.single first).tail (.dac second)) hi

/-- A volume setter: two register writes, at the address recorded before both. -/
theorem mergeVolumes {a : Bits7} (haddr : s.codec.addr = some a) (left right : ShadowIndex) (vol : Byte) (mask : Bits9)
    (hi : resultOf i s = none) :
    CommandEffect i s (Machine.complete (mergeVolume a right vol mask (mergeVolume a left vol mask s))) := by
  have first : UnitOp i s (mergeVolume a left vol mask s) := .codec (.setReg haddr _ _)
  have haddr' : (mergeVolume a left vol mask s).codec.addr = some a := haddr
  exact complete ((Relation.ReflTransGen.single first).tail (.codec (.setReg haddr' _ _))) hi

end CommandEffect

open Relation.ReflTransGen in
/-- Every command, in every state, does what `CommandEffect` says. -/
theorem exec_effect (i : Instr) (s : State) : CommandEffect i s (exec i s) := by
  cases i with
  | dacBegin =>
    have hbegin := CommandEffect.complete (i := .dacBegin) (single (.dac (.begin s))) rfl
    simpa [exec, execDacBegin, raiseCs, emit] using hbegin
  | dacWriteData sel value =>
    exact .requireBegun fun hbegun => .complete (single (.dac (.delayedFrame hbegun sel value))) rfl
  | dacWrite va vb => exact .requireBegun (.dacWriteTwo .delayedFrame va vb rfl)
  | dacWriteDataFast sel value =>
    exact .requireBegun fun hbegun => .complete (single (.dac (.fastFrame hbegun sel value))) rfl
  | dacWriteFast va vb => exact .requireBegun (.dacWriteTwo .fastFrame va vb rfl)
  | codecBegin addr fmt wl rate =>
    have haddr : (initBus (recordAddr addr s)).codec.addr = some addr := by rw [initBus_eq]; rfl
    exact .complete (head (.codec (.openBus addr fmt wl rate s)) (unitOps_setRegs _ haddr)) rfl
  | codecReset | codecSetActive | codecSetInactive | codecSet =>
    simp only [exec, execCodecReset, execCodecSetActive, execCodecSetInactive, execCodecSet]
    refine .requireCodecBegun fun a haddr => ?_
    exact .complete (single (.codec (.setReg haddr _ _))) rfl
  | codecSetInputVolume | codecSetOutputVolume =>
    simp only [exec, execCodecSetInputVolume, execCodecSetOutputVolume]
    refine .requireCodecBegun fun a haddr => ?_
    exact .mergeVolumes haddr _ _ _ _ rfl
  | codecGet reg => exact .completed .refl

/-- A command that answers a next state has faulted, or has completed after its unit operations. -/
theorem exec_cases {i : Instr} {s t : State} (hexec : exec i s = .next t) :
    (∃ r, (r = .dacNotBegun (encode i) ∨ r = .codecNotBegun (encode i)) ∧ t = { s with fault := some r }) ∨
    (∃ u, UnitOps i s u ∧ t = { u with result := resultOf i s }) := by
  have heffect := exec_effect i s
  rw [hexec] at heffect
  cases heffect with
  | faulted hr => exact .inl ⟨_, hr, rfl⟩
  | completed hops => exact .inr ⟨_, hops, rfl⟩

/-! ### Steps -/

/-- The two states have the same instantiation, units and trace. -/
structure SameUnits (s t : State) : Prop where
  inst : t.inst = s.inst
  dac : t.dac = s.dac
  codec : t.codec = s.codec
  trace : t.trace = s.trace

/-- A property that only looks at the instantiation, the units and the trace, and that every unit operation keeps, is
kept by every step. -/
theorem step_keeps {P : State → Prop} (hports : ∀ s t, SameUnits s t → P s → P t)
    (hops : ∀ i s t, UnitOp i s t → P s → P t) {s t : State} (hs : P s) (hstep : step s = .next t) : P t := by
  obtain ⟨-, ⟨-, rfl⟩ | ⟨w, r, -, -, rfl⟩ | ⟨w, i, u, -, -, hexec, rfl⟩⟩ := step_cases hstep
  · exact hs
  · exact hports s _ ⟨rfl, rfl, rfl, rfl⟩ hs
  · refine hports u _ ⟨moved_inst u, moved_dac u, moved_codec u, moved_trace u⟩ ?_
    obtain ⟨r, -, rfl⟩ | ⟨v, hsv, rfl⟩ := exec_cases hexec
    · exact hports s _ ⟨rfl, rfl, rfl, rfl⟩ hs
    · refine hports v _ ⟨rfl, rfl, rfl, rfl⟩ ?_
      clear hexec hstep
      induction hsv with
      | refl => exact hs
      | tail _ hop ih => exact hops i _ _ hop ih

/-! ## The DAC at rest (10_state.md R38 to R40) -/

theorem DacOp.keeps_dacAtRest {s t : State} (hop : DacOp s t) (hs : DacAtRest s) : DacAtRest t := by
  obtain ⟨hirq, -⟩ := hs
  cases hop with
  | begin => exact ⟨hirq, rfl⟩
  | delayedFrame hbegun => simp [DacAtRest, sendDac, delayedFrame_eq, hirq, hbegun]
  | fastFrame hbegun => simp [DacAtRest, sendDac, fastFrame_eq, hbegun]

/-- Settles O51: the DAC's operations leave the unit at rest, and the codec's do not touch it. -/
theorem stepKeepsDacAtRest : Obligations.StepKeepsDacAtRest := by
  intro s t
  refine step_keeps (fun s t h => by simp [DacAtRest, h.dac]) fun i s t hop hs => ?_
  cases hop with
  | dac hop => exact hop.keeps_dacAtRest hs
  | codec hop => simpa [DacAtRest, hop.dac_eq] using hs

/-! ## The recorded address (10_state.md R45 to R47) -/

theorem CodecOp.keeps_addrMatchesInit {i : Instr} {s t : State} (hop : CodecOp i s t) (hs : AddrMatchesInit s) :
    AddrMatchesInit t := by
  cases hop with
  | openBus => simp [AddrMatchesInit, initBus_eq]
  | setReg => exact hs

/-- Settles O52: opening the bus records an address and initializes together, and nothing else writes either. -/
theorem stepKeepsAddrMatchesInit : Obligations.StepKeepsAddrMatchesInit := by
  intro s t
  refine step_keeps (fun s t h => by simp [AddrMatchesInit, h.codec]) fun i s t hop hs => ?_
  cases hop with
  | dac hop => simpa [AddrMatchesInit, hop.codec_eq] using hs
  | codec hop => exact hop.keeps_addrMatchesInit hs

/-! ## One bus initialization (41_codec.md R201) -/

theorem isDelayMs_of_dac {e : Event} (he : e.unit = .dac) : isDelayMs e = false := by
  cases e <;> simp [isDelayMs, Event.unit] at he ⊢

theorem ne_i2cInit_of_dac {e : Event} (he : e.unit = .dac) : e ≠ .i2cInit := by
  rintro rfl
  cases he

theorem DacOp.keeps_oneBusInit {s t : State} (hop : DacOp s t) (hs : OneBusInit s) : OneBusInit t := by
  obtain ⟨es, htrace, hunit⟩ := hop.trace_append
  have hinit : es.count .i2cInit = 0 := List.count_eq_zero.mpr fun h => ne_i2cInit_of_dac (hunit _ h) rfl
  have hdelay : es.countP isDelayMs = 0 := by
    simpa [List.countP_eq_zero] using fun e he => isDelayMs_of_dac (hunit e he)
  simpa [OneBusInit, htrace, hop.codec_eq, hinit, hdelay] using hs

theorem CodecOp.keeps_oneBusInit {i : Instr} {s t : State} (hop : CodecOp i s t) (hs : OneBusInit s) :
    OneBusInit t := by
  obtain ⟨hinit, hdelay⟩ := hs
  cases hop with
  | openBus =>
    cases h : s.codec.initialized <;> simp [OneBusInit, initBus_eq, hinit, hdelay, h, isDelayMs, List.count_append]
  | setReg => exact ⟨Eq.trans (by simp) hinit, Eq.trans (by simp [isDelayMs]) hdelay⟩

/-- Settles O53: only opening the bus emits the two events, and only when the bus is not yet initialized. -/
theorem stepKeepsOneBusInit : Obligations.StepKeepsOneBusInit := by
  intro s t
  refine step_keeps (fun s t h => by simp [OneBusInit, h.codec, h.trace]) fun i s t hop hs => ?_
  cases hop with
  | dac hop => exact hop.keeps_oneBusInit hs
  | codec hop => exact hop.keeps_oneBusInit hs

/-! ## The shadow and the values sent (10_state.md R50 to R53) -/

theorem sentTo_of_dac (c : ShadowIndex) {e : Event} (he : e.unit = .dac) : sentTo c e = none := by
  cases e <;> simp [sentTo, Event.unit] at he ⊢

theorem lastSent_append_of_none {c : ShadowIndex} {es : List Event} (hes : ∀ e ∈ es, sentTo c e = none)
    (pre : List Event) : lastSent c (pre ++ es) = lastSent c pre := by
  rw [lastSent, List.filterMap_append, List.filterMap_eq_nil_iff.mpr hes, List.append_nil, lastSent]

theorem toReg_eq_iff {r : Bits7} {c : ShadowIndex} : r = c.toReg ↔ r.toNat = c.val := by
  rw [← BitVec.toNat_inj, toReg_toNat]

theorem lastSent_append_write (c : ShadowIndex) (pre : List Event) (a r : Bits7) (v : Bits9) :
    lastSent c (pre ++ [.i2cWrite a (regByte0 r v) (regByte1 v)]) =
      if r.toNat = c.val then v else lastSent c pre := by
  split <;> rename_i hr <;> rw [← toReg_eq_iff] at hr
  · simp [lastSent, sentTo, regByte0_reg, regBytes_val, hr]
  · exact lastSent_append_of_none (by simp [sentTo, regByte0_reg, hr]) pre

theorem DacOp.keeps_shadowIsLastSent {s t : State} (hop : DacOp s t) (hs : ShadowIsLastSent s) :
    ShadowIsLastSent t := by
  intro c
  obtain ⟨es, htrace, hunit⟩ := hop.trace_append
  rw [hop.codec_eq, htrace, lastSent_append_of_none fun e he => sentTo_of_dac c (hunit e he)]
  exact hs c

theorem CodecOp.keeps_shadowIsLastSent {i : Instr} {s t : State} (hop : CodecOp i s t) (hs : ShadowIsLastSent s) :
    ShadowIsLastSent t := by
  intro c
  cases hop with
  | openBus =>
    rw [initBus_eq, lastSent_append_of_none (by split <;> simp [sentTo])]
    exact hs c
  | setReg _ r v =>
    rw [setReg_trace, lastSent_append_write, ← hs c]
    exact writeShadow_get s.codec.shadow r v c

/-- Settles O57: a register write puts its value in the shadow and on the bus, and nothing else does either. -/
theorem stepKeepsShadowIsLastSent : Obligations.StepKeepsShadowIsLastSent := by
  intro s t
  refine step_keeps (fun s t h => by simp [ShadowIsLastSent, h.codec, h.trace]) fun i s t hop hs => ?_
  cases hop with
  | dac hop => exact hop.keeps_shadowIsLastSent hs
  | codec hop => exact hop.keeps_shadowIsLastSent hs

/-! ## The host's port, the result port and the trace (10_state.md R31 to R33) -/

theorem moved_host (t : State) :
    (moved t).host = if t.fault = none then { t.host with k := t.host.k + 1 } else t.host := by
  unfold moved
  split <;> rfl

/-- Settles O47: the three ways a presented word can be answered are a refusal, a fault and a completion. -/
theorem positionMovesOnCompletion : Obligations.PositionMovesOnCompletion := by
  intro s t w hword hstep
  obtain ⟨⟨hfault, hrefused⟩, ⟨hwait, -⟩ | ⟨_, r, -, -, rfl⟩ | ⟨_, i, u, -, -, hexec, rfl⟩⟩ := step_cases hstep
  · exact absurd (hwait.symm.trans hword) (by simp)
  · simp
  · obtain ⟨r, -, rfl⟩ | ⟨v, hops, rfl⟩ := exec_cases hexec
    · simp [moved_host]
    · have h := samePorts_of_unitOps hops
      simp [moved_host, h.fault, h.refused, h.host, hfault, hrefused]

theorem exec_keeps_refused {i : Instr} {s t : State} (hexec : exec i s = .next t) : t.refused = s.refused := by
  obtain ⟨r, -, rfl⟩ | ⟨u, hops, rfl⟩ := exec_cases hexec
  · rfl
  · exact (samePorts_of_unitOps hops).refused

theorem resultOf_eq_none {i : Instr} (hi : ∀ c : ShadowIndex, i ≠ .codecGet c) (s : State) : resultOf i s = none := by
  cases i with
  | codecGet c => exact absurd rfl (hi c)
  | _ => rfl

/-- Settles O48: completing a command writes `resultOf` to the port, and a fault or a refusal writes its own record. -/
theorem resultPortWrittenOnCompletion : Obligations.ResultPortWrittenOnCompletion := by
  refine ⟨fun i s t hfault hexec => ?_, fun s t hstep hstopped => ?_, rfl⟩
  · obtain ⟨r, -, rfl⟩ | ⟨u, hops, rfl⟩ := exec_cases hexec
    · exact ⟨nofun, fun _ => rfl⟩
    · refine ⟨fun _ => ⟨?_, fun hi => resultOf_eq_none hi s⟩, fun h => ?_⟩
      · rintro c rfl
        rfl
      · exact absurd ((samePorts_of_unitOps hops).fault.trans hfault) h
  · obtain ⟨⟨-, hrefused⟩, ⟨-, rfl⟩ | ⟨_, r, -, -, rfl⟩ | ⟨_, i, u, -, -, hexec, rfl⟩⟩ := step_cases hstep
    · rfl
    · rfl
    · rw [moved_refused, exec_keeps_refused hexec] at hstopped
      exact absurd hrefused hstopped

/-- The instantiation is that of `s₀`, and the trace begins with the trace of `s₀`. -/
def GrownFrom (s₀ s : State) : Prop := s.inst = s₀.inst ∧ ∃ es : List Event, s.trace = s₀.trace ++ es

theorem UnitOp.keeps_grownFrom {i : Instr} {s₀ s t : State} (hop : UnitOp i s t) (hs : GrownFrom s₀ s) :
    GrownFrom s₀ t := by
  obtain ⟨hinst, es, htrace⟩ := hs
  obtain ⟨es', htrace'⟩ := hop.trace_append
  exact ⟨hop.samePorts.inst.trans hinst, es ++ es', by rw [htrace', htrace, List.append_assoc]⟩

/-- Settles O50: having grown from the old state is an invariant of every unit operation. -/
theorem traceGrowsAndInstantiationStays : Obligations.TraceGrowsAndInstantiationStays := by
  intro s t
  exact step_keeps (P := GrownFrom s) (fun u v h => by simp [GrownFrom, h.inst, h.trace])
    (fun i u v hop => hop.keeps_grownFrom) ⟨rfl, [], by simp⟩

/-- Settles O44: with no word at its position, nothing is fetched. -/
theorem blockWaitsForAWord : Obligations.BlockWaitsForAWord := by
  intro s hlive hend
  have hfetch : fetch s = none := List.getElem?_eq_none hend
  simp [step, stopReason_eq_none.mpr hlive, hfetch]

/-! ## The control byte (10_state.md R37) -/

/-- The control byte of a command byte may be ORed in last: without flags it is 0 (40_dac.md R143). -/
theorem dacByte0_eq_flagless_or (c : Config.Instantiation) (code : Byte) (v : BitVec 16) :
    dacByte0 c code v = dacByte0 { params := c.params } code v ||| controlByte c := by
  have hflagless : controlByte { params := c.params } = 0#8 := by simp [controlByte]
  rw [dacByte0, dacByte0, hflagless, BitVec.or_zero]

/-- Settles O3: each flag contributes its own bits, and the command byte takes the byte they make. -/
theorem controlByteFromFlags : Obligations.ControlByteFromFlags := by
  refine ⟨fun p => ?_, rfl, rfl, rfl, dacByte0_eq_flagless_or⟩
  simp [controlByte]

end Sys2Proof.Proofs

/-! ## The command of a step (20_memory.md R90, 30_encoding.md R120) -/

namespace Sys2Proof.Proofs

open Sys2Proof.Machine Sys2Proof.Safety

/-- Settles O41: a live block fetches the word, decodes it and executes the command. -/
theorem stepRunsDecodedCommand : Obligations.StepRunsDecodedCommand := by
  intro s w i hlive hword hdecode t hexec
  have hfetch : fetch s = some w := hword
  simp [step, stopReason_eq_none.mpr hlive, hfetch, hdecode, hexec, advance, moved]

/-! ### Decode answers well-formed commands (30_encoding.md R120) -/

theorem wf_of_decodeOperands {p : Config.Params} {o : Opcode} {w : Word64} {i : Instr}
    (h : decodeOperands p o w = .ok i) : i.wf p = true := by
  cases o with
  | dacBegin | codecReset | codecSetActive | codecSetInactive | dacWrite | dacWriteFast => cases h; rfl
  | dacWriteData | dacWriteDataFast =>
    simp only [decodeOperands, decodeDw] at h
    split at h <;> cases h
    rfl
  | codecSetInputVolume | codecSetOutputVolume =>
    simp only [decodeOperands, decodeVol] at h
    split at h <;> cases h
    assumption
  | codecSet =>
    simp only [decodeOperands, decodeSet] at h
    split at h
    · cases h
    · split at h <;> cases h
      rfl
  | codecGet =>
    simp only [decodeOperands, decodeGet] at h
    split at h <;> cases h
    rfl
  | codecBegin =>
    simp only [decodeOperands, decodeCb] at h
    split at h
    · cases h
    · split at h <;> cases h
      simp_all [Instr.wf]

theorem wf_of_decode {p : Config.Params} {w : Word64} {i : Instr} (h : decode p w = .ok i) : i.wf p = true := by
  unfold decode at h
  split at h
  · cases h
  · split at h
    · cases h
    · exact wf_of_decodeOperands h

/-- A property that only looks at the instantiation, the units and the trace is kept by every step as soon as every
unit operation of a well-formed command keeps it: the parameters that decode checked the command against are still
those of the state each of its operations starts from. -/
theorem step_keeps_of_wf {P : State → Prop} (hports : ∀ s t, SameUnits s t → P s → P t)
    (hops : ∀ i s t, i.wf s.inst.params = true → UnitOp i s t → P s → P t) {s t : State} (hs : P s)
    (hstep : step s = .next t) : P t := by
  obtain ⟨-, ⟨-, rfl⟩ | ⟨w, r, -, -, rfl⟩ | ⟨w, i, u, -, hdecode, hexec, rfl⟩⟩ := step_cases hstep
  · exact hs
  · exact hports s _ ⟨rfl, rfl, rfl, rfl⟩ hs
  · refine hports u _ ⟨moved_inst u, moved_dac u, moved_codec u, moved_trace u⟩ ?_
    obtain ⟨r, -, rfl⟩ | ⟨v, hsv, rfl⟩ := exec_cases hexec
    · exact hports s _ ⟨rfl, rfl, rfl, rfl⟩ hs
    · refine hports v _ ⟨rfl, rfl, rfl, rfl⟩ ?_
      have hwf := wf_of_decode hdecode
      clear hexec hstep hdecode
      induction hsv with
      | refl => exact hs
      | tail hsu hop ih =>
        rw [← (samePorts_of_unitOps hsu).inst] at hwf
        exact hops i _ _ hwf hop ih

/-! ## What a unit operation does to the registers (41_codec.md R184) -/

theorem writtenReg_of_dac {e : Event} (he : e.unit = .dac) : writtenReg e = none := by
  cases e <;> simp [writtenReg, Event.unit] at he ⊢

/-- An operation is a register write at the recorded address, or it leaves the shadow alone and writes no register. -/
theorem UnitOp.register_cases {i : Instr} {s t : State} (hop : UnitOp i s t) :
    (∃ a r v, s.codec.addr = some a ∧ t = setReg a r v s) ∨
    (t.codec.shadow = s.codec.shadow ∧
      ∃ es : List Event, t.trace = s.trace ++ es ∧ ∀ e ∈ es, writtenReg e = none) := by
  cases hop with
  | dac hop =>
    obtain ⟨es, htrace, hunit⟩ := hop.trace_append
    exact .inr ⟨by rw [hop.codec_eq], es, htrace, fun e he => writtenReg_of_dac (hunit e he)⟩
  | codec hop =>
    cases hop with
    | openBus =>
      rw [initBus_eq]
      refine .inr ⟨rfl, _, rfl, ?_⟩
      split <;> simp [writtenReg]
    | setReg haddr r v => exact .inl ⟨_, r, v, haddr, rfl⟩

/-! ## Strap addresses (20_memory.md R77 (c)) -/

theorem addrLegal_of_recorded {i : Instr} {s t : State} (hwf : i.wf s.inst.params = true) (hop : UnitOp i s t)
    (hs : ∀ a, s.codec.addr = some a → addrLegal s.inst.params a = true) {a : Bits7} (ha : t.codec.addr = some a) :
    addrLegal s.inst.params a = true := by
  cases hop with
  | dac hop => exact hs a (hop.codec_eq ▸ ha)
  | codec hop =>
    cases hop with
    | openBus addr fmt wl rate =>
      obtain ⟨haddr, -⟩ := Bool.and_eq_true_iff.mp hwf
      obtain rfl : addr = a := by simpa [initBus_eq] using ha
      exact haddr
    | setReg => exact hs a ha

theorem UnitOp.keeps_strapAddressesOnly {i : Instr} {s t : State} (hwf : i.wf s.inst.params = true)
    (hop : UnitOp i s t) (hs : StrapAddressesOnly s) : StrapAddressesOnly t := by
  obtain ⟨haddr, hsent⟩ := hs
  rw [StrapAddressesOnly, hop.samePorts.inst]
  refine ⟨fun a => addrLegal_of_recorded hwf hop haddr, fun a b0 b1 hmem => ?_⟩
  obtain ⟨a', r, v, ha', rfl⟩ | ⟨-, es, htrace, hes⟩ := hop.register_cases
  · rw [setReg_trace, List.mem_append, List.mem_singleton] at hmem
    obtain hmem | hlast := hmem
    · exact hsent a b0 b1 hmem
    · obtain ⟨rfl, -, -⟩ := Event.i2cWrite.inj hlast
      exact haddr a ha'
  · rw [htrace, List.mem_append] at hmem
    obtain hmem | hmem := hmem
    · exact hsent a b0 b1 hmem
    · simpa [writtenReg] using hes _ hmem

/-- Settles O54: decode lets only a strap address be recorded, and a register write goes to the recorded address. -/
theorem stepKeepsStrapAddresses : Obligations.StepKeepsStrapAddresses := by
  intro s t
  exact step_keeps_of_wf (fun s t h => by simp [StrapAddressesOnly, h.inst, h.codec, h.trace])
    fun i s t hwf hop => hop.keeps_strapAddressesOnly hwf

/-! ## The codec observer (20_memory.md R87) -/

theorem writes_latch (p : Config.Params) (b0 b1 : Byte) (c : CodecChip) : (c.latch p b0 b1).writes = c.writes := by
  rw [CodecChip.latch, apply_ite CodecChip.writes, ite_self]

/-- A latched register write, register by register: a write to `REG_RESET` empties them all. -/
theorem reg_latch (p : Config.Params) (r q : Bits7) (v : Bits9) (c : CodecChip) :
    (c.latch p (regByte0 r v) (regByte1 v)).reg q =
      if r = p.regReset then none else if r = q then some v else c.reg q := by
  by_cases hreset : r = p.regReset
  · simp [CodecChip.latch, CodecChip.reg, regByte0_reg, hreset]
  · simp [CodecChip.latch, CodecChip.reg, regByte0_reg, regBytes_val, hreset, Vector.getElem_set, BitVec.toNat_inj]

section
variable {p : Config.Params} {strap : Bits7} {ack : Nat → Bool}

theorem codecChip_after_append (c : CodecChip) (es es' : List Event) :
    c.after p strap ack (es ++ es') = (c.after p strap ack es).after p strap ack es' := List.foldl_append

theorem codecChip_after_of_no_write {es : List Event} (hes : ∀ e ∈ es, writtenReg e = none) (c : CodecChip) :
    c.after p strap ack es = c := by
  induction es with
  | nil => rfl
  | cons e es ih =>
    obtain ⟨he, hes⟩ := List.forall_mem_cons.mp hes
    have hsees : c.sees p strap ack e = c := by
      cases e with
      | i2cWrite => cases he
      | _ => rfl
    rw [CodecChip.after, List.foldl_cons, hsees]
    exact ih hes

/-- The observer numbers the writes as they come, acknowledged or not. -/
theorem writes_sees (c : CodecChip) (e : Event) :
    (c.sees p strap ack e).writes = c.writes + if (writtenReg e).isSome then 1 else 0 := by
  cases e with
  | i2cWrite =>
    rw [CodecChip.sees, apply_ite CodecChip.writes, writes_latch, ite_self]
    rfl
  | _ => rfl

theorem writes_after (c : CodecChip) (es : List Event) :
    (c.after p strap ack es).writes = c.writes + es.countP fun e => (writtenReg e).isSome := by
  induction es generalizing c with
  | nil => rfl
  | cons e es ih =>
    rw [CodecChip.after, List.foldl_cons, List.countP_cons, Nat.add_comm (es.countP _), ← Nat.add_assoc,
      ← writes_sees]
    exact ih _

theorem reg_sees_write (c : CodecChip) (a r q : Bits7) (v : Bits9) :
    (c.sees p strap ack (.i2cWrite a (regByte0 r v) (regByte1 v))).reg q =
      if a = strap ∧ ack c.writes = true then
        if r = p.regReset then none else if r = q then some v else c.reg q
      else c.reg q := by
  rw [CodecChip.sees, apply_ite (CodecChip.reg · q), reg_latch]
  rfl

/-- What one more register write makes of the chip's registers, by its address and its place among the writes. -/
theorem reg_after_write (es : List Event) (a r q : Bits7) (v : Bits9) :
    (CodecChip.powerUp.after p strap ack (es ++ [.i2cWrite a (regByte0 r v) (regByte1 v)])).reg q =
      if a = strap ∧ ack (es.countP fun e => (writtenReg e).isSome) = true then
        if r = p.regReset then none
        else if r = q then some v else (CodecChip.powerUp.after p strap ack es).reg q
      else (CodecChip.powerUp.after p strap ack es).reg q := by
  have hwrites : (CodecChip.powerUp.after p strap ack es).writes = _ := (writes_after _ es).trans (Nat.zero_add _)
  rw [codecChip_after_append, ← hwrites]
  exact reg_sees_write _ a r q v

end

/-! ## The shadow and the codec chip (20_memory.md R89) -/

/-- Where an element of a concatenation stands: in the second part, or in the first. -/
theorem append_eq_append_cons {α : Type} {xs ys before later : List α} {x : α}
    (h : xs ++ ys = before ++ x :: later) :
    (∃ mid, before = xs ++ mid ∧ ys = mid ++ x :: later) ∨ (∃ mid, xs = before ++ x :: mid ∧ later = mid ++ ys) := by
  obtain ⟨mid, hbefore, hys⟩ | ⟨rest, hxs, hrest⟩ := List.append_eq_append_iff.mp h
  · exact .inl ⟨mid, hbefore, hys⟩
  · obtain ⟨rfl, rfl⟩ | ⟨mid, rfl, hlater⟩ := List.cons_eq_append_iff.mp hrest
    · exact .inl ⟨[], by simpa using hxs.symm, rfl⟩
    · exact .inr ⟨mid, hxs, hlater⟩

theorem setReg_shadow_get (a r : Bits7) (v : Bits9) (s : State) (c : ShadowIndex) :
    (setReg a r v s).codec.shadow[c] = if r = c.toReg then v else s.codec.shadow[c] :=
  (writeShadow_get s.codec.shadow r v c).trans (by simp only [toReg_eq_iff])

theorem setReg_keeps_ackedWriteIsMirrored {strap : Bits7} {ack : Nat → Bool} {s : State} (a r : Bits7) (v : Bits9)
    (hs : AckedWriteIsMirrored strap ack s) : AckedWriteIsMirrored strap ack (setReg a r v s) := by
  intro i before later b0 b1 hsplit hreg hreset hack hlater
  rw [setReg_inst] at hreset hlater ⊢
  rw [setReg_trace, reg_after_write, setReg_shadow_get]
  obtain ⟨mid, rfl, hlast⟩ | ⟨mid, htrace, rfl⟩ := append_eq_append_cons hsplit
  · -- the write in question is the new one
    obtain ⟨rfl, hwrite, rfl⟩ : mid = [] ∧ _ ∧ later = [] := by simpa [List.cons_eq_append_iff] using hlast
    obtain ⟨rfl, rfl, rfl⟩ := hwrite
    rw [regByte0_reg] at hreg
    subst hreg
    rw [List.append_nil] at hack
    simp [hack, hreset]
  · -- it stands in the old trace, and the new write goes elsewhere
    obtain ⟨hne, hne'⟩ : r ≠ i.toReg ∧ r ≠ s.inst.params.regReset := by
      simpa [writtenReg, regByte0_reg] using hlater _ (List.mem_append_right mid (List.mem_singleton_self _))
    have hold := hs i before mid b0 b1 htrace hreg hreset hack fun e he => hlater e (List.mem_append_left _ he)
    simp [hne, hne', hold]

theorem UnitOp.keeps_ackedWriteIsMirrored {strap : Bits7} {ack : Nat → Bool} {i : Instr} {s t : State}
    (hop : UnitOp i s t) (hs : AckedWriteIsMirrored strap ack s) : AckedWriteIsMirrored strap ack t := by
  obtain ⟨a, r, v, -, rfl⟩ | ⟨hshadow, es, htrace, hes⟩ := hop.register_cases
  · exact setReg_keeps_ackedWriteIsMirrored a r v hs
  · intro i before later b0 b1 hsplit hreg hreset hack hlater
    rw [hop.samePorts.inst] at hreset hlater ⊢
    rw [htrace] at hsplit ⊢
    obtain ⟨mid, -, rfl⟩ | ⟨mid, hold, rfl⟩ := append_eq_append_cons hsplit
    · exact absurd (hes _ (List.mem_append_right mid List.mem_cons_self)) (by simp [writtenReg])
    · rw [codecChip_after_append, codecChip_after_of_no_write hes, hshadow]
      exact hs i before mid b0 b1 hold hreg hreset hack fun e he => hlater e (List.mem_append_left _ he)

theorem UnitOp.keeps_shadowMirrorsChip {strap : Bits7} {i : Instr} {s t : State} (hop : UnitOp i s t)
    (hs : ShadowMirrorsChip strap s) : ShadowMirrorsChip strap t := by
  intro hstrap c
  obtain ⟨a, r, v, -, rfl⟩ | ⟨hshadow, es, htrace, hes⟩ := hop.register_cases
  · obtain rfl : a = strap := hstrap a _ _ (List.mem_append_right _ (List.mem_singleton_self _))
    have hold := hs (fun a' b0 b1 h => hstrap a' b0 b1 (List.mem_append_left _ h)) c
    rw [ackedChip] at hold
    rw [setReg_shadow_get, ackedChip, setReg_trace, setReg_inst, reg_after_write, if_pos ⟨rfl, rfl⟩]
    split_ifs
    · exact .inl rfl
    · exact .inr rfl
    · exact hold
  · rw [ackedChip, hop.samePorts.inst, htrace, codecChip_after_append, codecChip_after_of_no_write hes, hshadow]
    exact hs (fun a b0 b1 h => hstrap a b0 b1 (htrace ▸ List.mem_append_left _ h)) c

/-- Settles O58: a register write puts its value in the shadow and, when acknowledged, in the chip, and nothing else
touches either. -/
theorem stepKeepsShadowMirrorsChip : Obligations.StepKeepsShadowMirrorsChip := by
  intro strap s t hstep
  refine ⟨fun ack hs => ?_, fun hs => ?_⟩
  · exact step_keeps (fun s t h => by simp [AckedWriteIsMirrored, h.inst, h.codec, h.trace])
      (fun i s t hop => hop.keeps_ackedWriteIsMirrored) hs hstep
  · exact step_keeps (fun s t h => by simp [ShadowMirrorsChip, ackedChip, h.inst, h.codec, h.trace])
      (fun i s t hop => hop.keeps_shadowMirrorsChip) hs hstep

/-! ## The code in a command byte (00_scope.md R11, 40_dac.md R143) -/

theorem and_eq_self_of_and_not {x m : Byte} (h : x &&& ~~~m = 0#8) : x &&& m = x := by
  calc x &&& m = x &&& m ||| x &&& ~~~m := by rw [h, BitVec.or_zero]
    _ = x := by rw [← BitVec.and_or_distrib_left, BitVec.or_not_self, BitVec.and_allOnes]

theorem controlByte_and_field {c : Config.Instantiation} (hlegal : Config.Legal c.params) :
    controlByte c &&& c.params.dacCmdField = 0#8 := by
  obtain ⟨-, ⟨-, -, -, -, -, -, -, hcontrol, -⟩, -⟩ := hlegal
  rw [BitVec.and_comm, BitVec.and_or_distrib_right, BitVec.or_eq_zero_iff] at hcontrol
  obtain ⟨hfast, hdown⟩ := hcontrol
  rw [controlByte, BitVec.and_or_distrib_right, BitVec.or_eq_zero_iff]
  constructor
  · split_ifs
    · exact hfast
    · exact BitVec.zero_and
  · split_ifs
    · exact hdown
    · exact BitVec.zero_and

theorem code_and_field {p : Config.Params} (hlegal : Config.Legal p) (sel : DacSel) :
    cmdCode p sel &&& p.dacCmdField = cmdCode p sel := by
  obtain ⟨-, ⟨⟨-, hBBuf⟩, ⟨-, hBuf⟩, ⟨-, hAUpd⟩, -⟩, -⟩ := hlegal
  cases sel with
  | bBuf => exact and_eq_self_of_and_not hBBuf
  | buf => exact and_eq_self_of_and_not hBuf
  | aUpd => exact and_eq_self_of_and_not hAUpd

theorem nibble_and_field {p : Config.Params} (hlegal : Config.Legal p) (x : BitVec 4) :
    x.setWidth 8 &&& p.dacCmdField = 0#8 := by
  obtain ⟨-, ⟨-, -, -, -, -, -, hlow, -⟩, -⟩ := hlegal
  have hx : x.setWidth 8 = x.setWidth 8 &&& 0x0F#8 := by
    apply BitVec.eq_of_getLsbD_eq
    intro k hk
    interval_cases k <;> simp
  rw [hx, BitVec.and_assoc, BitVec.and_comm 0x0F#8, hlow, BitVec.and_zero]

/-- A command byte carries its code in the command field: the value's nibble and the control bits lie outside it
(00_scope.md R11). -/
theorem dacByte0_and_field {c : Config.Instantiation} (hlegal : Config.Legal c.params) (sel : DacSel)
    (value : BitVec 16) :
    dacByte0 c (cmdCode c.params sel) value &&& c.params.dacCmdField = cmdCode c.params sel := by
  rw [dacByte0, BitVec.and_or_distrib_right, BitVec.and_or_distrib_right, nibble_and_field hlegal,
    code_and_field hlegal, controlByte_and_field hlegal, BitVec.zero_or, BitVec.or_zero]

/-! ## The DAC observer (20_memory.md R80 to R85) -/

section
variable {p : Config.Params}

theorem dacChip_after_append (o : DacChip) (es es' : List Event) :
    o.after p (es ++ es') = (o.after p es).after p es' := List.foldl_append

theorem dacChip_after_of_codec {es : List Event} (hes : ∀ e ∈ es, e.unit = .codec) (o : DacChip) :
    o.after p es = o := by
  induction es with
  | nil => rfl
  | cons e es ih =>
    obtain ⟨he, hes⟩ := List.forall_mem_cons.mp hes
    have hsees : o.sees p e = o := by
      cases e with
      | i2cInit | delayMs | i2cWrite => rfl
      | _ => cases he
    rw [DacChip.after, List.foldl_cons, hsees]
    exact ih hes

/-- A recognised frame leaves a known chip known. -/
theorem known_frame {b0 b1 : Byte} {o : DacChip} {sel : DacSel} (hcode : b0 &&& p.dacCmdField = cmdCode p sel)
    (ho : DacChipKnown o) : DacChipKnown (o.frame p b0 b1) := by
  obtain ⟨hA, hB, hbuf⟩ := ho
  rw [DacChip.frame, hcode]
  split_ifs with h1 h2 h3
  · exact ⟨hA, rfl, rfl⟩
  · exact ⟨hA, hB, rfl⟩
  · exact ⟨rfl, hbuf, hbuf⟩
  · cases sel <;> contradiction

/-- Watched from a chip with no window open, the events leave none open, and a chip known before them is known after
each of them. -/
structure Understood (p : Config.Params) (es : List Event) : Prop where
  closed : ∀ o : DacChip, o.window = .closed → (o.after p es).window = .closed
  known : ∀ o : DacChip, o.window = .closed → DacChipKnown o → ∀ n, DacChipKnown (o.after p (es.take n))

theorem dacChipUnderstood_iff (s : State) : DacChipUnderstood s ↔ Understood s.inst.params s.trace :=
  ⟨fun h => ⟨fun o ho => (h o ho).1, fun o ho => (h o ho).2⟩, fun h o ho => ⟨h.closed o ho, h.known o ho⟩⟩

theorem Understood.append {es es' : List Event} (h : Understood p es) (h' : Understood p es') :
    Understood p (es ++ es') where
  closed o ho := by
    rw [dacChip_after_append]
    exact h'.closed _ (h.closed o ho)
  known o ho hknown n := by
    rw [List.take_append, dacChip_after_append]
    obtain hn | hn := Nat.le_total n es.length
    · rw [Nat.sub_eq_zero_of_le hn]
      exact h.known o ho hknown n
    · have hafter := h.known o ho hknown n
      rw [List.take_of_length_le hn] at hafter ⊢
      exact h'.known _ (h.closed o ho) hafter _

theorem understood_of_codec {es : List Event} (hes : ∀ e ∈ es, e.unit = .codec) : Understood p es where
  closed o ho := by rwa [dacChip_after_of_codec hes]
  known o _ hknown n := by rwa [dacChip_after_of_codec fun e he => hes e (List.mem_of_mem_take he)]

/-- Only the values count, not the window. -/
@[simp] theorem known_withWindow {o : DacChip} {w : Window} :
    DacChipKnown { o with window := w } ↔ DacChipKnown o := .rfl

@[simp] theorem dacChip_after_nil (o : DacChip) : o.after p [] = o := rfl

@[simp] theorem dacChip_after_cons (o : DacChip) (e : Event) (es : List Event) :
    o.after p (e :: es) = (o.sees p e).after p es := rfl

theorem known_throughout_cons {o : DacChip} {e : Event} {es : List Event} :
    (∀ n, DacChipKnown (o.after p ((e :: es).take n))) ↔
      DacChipKnown o ∧ ∀ n, DacChipKnown ((o.sees p e).after p (es.take n)) := by
  refine ⟨fun h => ⟨h 0, fun n => h (n + 1)⟩, fun ⟨ho, h⟩ n => ?_⟩
  cases n with
  | zero => exact ho
  | succ n => exact h n

@[simp] theorem sees_csLow (o : DacChip) :
    o.sees p (.csLow p.dacCsLine) = { o with window := o.window.open } := if_pos rfl

@[simp] theorem sees_csHigh (o : DacChip) : o.sees p (.csHigh p.dacCsLine) = o.close p := if_pos rfl

@[simp] theorem sees_csOutput (o : DacChip) :
    o.sees p (.csOutput p.dacCsLine) = { o with window := o.window.spoil } := if_pos rfl

@[simp] theorem sees_spiXfer (o : DacChip) (b : Byte) :
    o.sees p (.spiXfer b) = { o with window := o.window.byte b } := rfl

@[simp] theorem sees_spiConfig (o : DacChip) (order : BitOrder) (mode : SpiMode) (div : Nat) :
    o.sees p (.spiConfig order mode div) = { o with window := o.window.spoil } := rfl

theorem window_frame (b0 b1 : Byte) (o : DacChip) : (o.frame p b0 b1).window = o.window := by
  rw [DacChip.frame]
  split_ifs <;> rfl

theorem understood_begin (mode : SpiMode) (div : Nat) :
    Understood p [.spiConfig .msbFirst mode div, .csOutput p.dacCsLine, .csHigh p.dacCsLine] where
  closed o ho := by simp [DacChip.close, Window.spoil, ho]
  known o ho hknown := by simpa [known_throughout_cons, DacChip.close, Window.spoil, ho] using hknown

/-- A frame in either framing, its settling or interrupt events standing before and after the two transfers. -/
theorem understood_frame {b0 b1 : Byte} {sel : DacSel} {pre post : Event}
    (hcode : b0 &&& p.dacCmdField = cmdCode p sel)
    (hpre : ∀ o : DacChip, o.sees p pre = { o with window := o.window.pause })
    (hpost : ∀ o : DacChip, o.sees p post = { o with window := o.window.pause }) :
    Understood p [.csLow p.dacCsLine, pre, .spiXfer b0, .spiXfer b1, post, .csHigh p.dacCsLine] where
  closed o ho := by simp [DacChip.close, Window.open, Window.pause, Window.byte, hpre, hpost, ho, window_frame]
  known o ho hknown := by
    simpa [known_throughout_cons, DacChip.close, Window.open, Window.pause, Window.byte, hpre, hpost, ho, hknown]
      using known_frame hcode (known_withWindow.mpr hknown)

end

/-! ### The block's events -/

theorem DacOp.keeps_understood {s t : State} (hop : DacOp s t) (hlegal : Config.Legal s.inst.params)
    (hs : Understood s.inst.params s.trace) : Understood s.inst.params t.trace := by
  cases hop with
  | begin => exact hs.append (understood_begin _ _)
  | delayedFrame _ sel value =>
    rw [sendDac, delayedFrame_eq]
    exact hs.append (understood_frame (dacByte0_and_field hlegal sel value) (fun _ => rfl) fun _ => rfl)
  | fastFrame _ sel value =>
    rw [sendDac, fastFrame_eq]
    exact hs.append (understood_frame (dacByte0_and_field hlegal sel value) (fun _ => rfl) fun _ => rfl)

theorem CodecOp.trace_append {i : Instr} {s t : State} (hop : CodecOp i s t) :
    ∃ es : List Event, t.trace = s.trace ++ es ∧ ∀ e ∈ es, e.unit = .codec := by
  cases hop with
  | openBus =>
    rw [initBus_eq]
    refine ⟨_, rfl, ?_⟩
    split <;> simp [Event.unit]
  | setReg => exact ⟨_, rfl, by simp [Event.unit]⟩

/-- Settles O56: the block's frames carry codes the observer knows, and `DAC_BEGIN` and the codec open no window. -/
theorem stepKeepsDacChipUnderstood : Obligations.StepKeepsDacChipUnderstood := by
  intro s t hlegal hs hstep
  refine (step_keeps (P := fun s => Config.Legal s.inst.params ∧ DacChipUnderstood s)
    (fun s t h => by simp [dacChipUnderstood_iff, h.inst, h.trace]) (fun i s t hop => ?_) ⟨hlegal, hs⟩ hstep).2
  rintro ⟨hlegal, hs⟩
  rw [dacChipUnderstood_iff] at hs ⊢
  rw [hop.samePorts.inst]
  refine ⟨hlegal, ?_⟩
  cases hop with
  | dac hop => exact hop.keeps_understood hlegal hs
  | codec hop =>
    obtain ⟨es, htrace, hunit⟩ := hop.trace_append
    exact htrace ▸ hs.append (understood_of_codec hunit)

/-! ## The bytes of a register write (20_memory.md R75, 41_codec.md R184) -/

/-- Concatenation as arithmetic: the low part is below the high part's unit. -/
theorem toNat_append_eq_add {m n : Nat} (x : BitVec m) (y : BitVec n) :
    (x ++ y).toNat = x.toNat * 2 ^ n + y.toNat := by
  rw [BitVec.toNat_append, ← Nat.shiftLeft_add_eq_or_of_lt y.isLt, Nat.shiftLeft_eq]

theorem regByte0_toNat (r : Bits7) (v : Bits9) : (regByte0 r v).toNat = 2 * r.toNat + v.toNat / 256 := by
  have hr : r.toNat < 128 := r.isLt
  have hv : v.toNat < 512 := v.isLt
  have hshift : (r.setWidth 8 <<< 1).toNat = r.toNat <<< 1 := by
    simp [Nat.shiftLeft_eq]
    omega
  have hbit : ((v.extractLsb' 8 1).setWidth 8).toNat = v.toNat / 256 := by
    simp [Nat.shiftRight_eq_div_pow]
    omega
  rw [regByte0, BitVec.toNat_or, hshift, hbit, ← Nat.shiftLeft_add_eq_or_of_lt (by omega), Nat.shiftLeft_eq]
  omega

theorem regByte1_toNat (v : Bits9) : (regByte1 v).toNat = v.toNat % 256 := by simp [regByte1]

/-- Settles O26: each concatenation is the sum of its parts at their places. -/
theorem registerWriteWord : Obligations.RegisterWriteWord := by
  intro r v
  have h0 := regByte0_toNat r v
  have h1 := regByte1_toNat v
  refine ⟨BitVec.eq_of_toNat_eq ?_, h0, h1⟩
  rw [wireWord, toNat_append_eq_add, toNat_append_eq_add, h0, h1]
  omega

end Sys2Proof.Proofs

/-! ## The fields of a command word (30_encoding.md R102)

A field is an operand widened to 64 bits and shifted to its place. A word made of disjoint fields is read back field by
field, and a field read from a word and put back is the word masked to the field's bits. -/

namespace Sys2Proof.Proofs

section
variable {n : Nat} (x : BitVec n) {k s m : Nat}

@[simp] theorem extract_field (h : k + m ≤ 64) : (x.setWidth 64 <<< k).extractLsb' k m = x.setWidth m := by
  apply BitVec.eq_of_getLsbD_eq
  intro j hj
  simp [hj, show k + j < 64 by omega]

@[simp] theorem extract_field_of_le_start (h : s + m ≤ k) : (x.setWidth 64 <<< k).extractLsb' s m = 0#m := by
  apply BitVec.eq_of_getLsbD_eq
  intro j hj
  simp [show s + j < k by omega]

@[simp] theorem extract_field_of_end_le (h : k + n ≤ s) : (x.setWidth 64 <<< k).extractLsb' s m = 0#m := by
  apply BitVec.eq_of_getLsbD_eq
  intro j hj
  simp [BitVec.getLsbD_of_ge x (s + j - k) (by omega)]

@[simp] theorem extract_low_field (h : m ≤ 64) : (x.setWidth 64).extractLsb' 0 m = x.setWidth m := by
  simpa using extract_field x (k := 0) (m := m) (by omega)

@[simp] theorem extract_low_field_of_end_le (h : n ≤ s) : (x.setWidth 64).extractLsb' s m = 0#m := by
  simpa using extract_field_of_end_le x (k := 0) (s := s) (m := m) (by omega)

end

/-- No operand field reaches the opcode bits (30_encoding.md R101). -/
@[simp] theorem extract_row (o : Opcode) {s m : Nat} (h : s + m ≤ 56) : o.row.extractLsb' s m = 0#m :=
  extract_field_of_le_start o.code h

@[simp] theorem extract_row_or (o : Opcode) (x : Word64) {s m : Nat} (h : s + m ≤ 56) :
    (o.row ||| x).extractLsb' s m = x.extractLsb' s m := by
  rw [BitVec.extractLsb'_or, extract_row o h, BitVec.zero_or]

theorem field_of_extract (w : Word64) (k n : Nat) :
    (w.extractLsb' k n).setWidth 64 <<< k = w &&& (BitVec.allOnes n).setWidth 64 <<< k := by
  apply BitVec.eq_of_getLsbD_eq
  intro j hj
  by_cases hk : k ≤ j
  · by_cases hn : j - k < n
    · simp [hj, hk, hn, Bool.and_comm]
    · simp [hn]
  · simp [show j < k by omega]

theorem low_field_of_extract (w : Word64) (n : Nat) :
    (w.extractLsb' 0 n).setWidth 64 = w &&& (BitVec.allOnes n).setWidth 64 := by
  simpa using field_of_extract w 0 n

/-- An operand of fewer bits than its field fills the field with the same number. -/
theorem setWidth_eq_of_toNat_eq {m n : Nat} {x : BitVec m} {y : BitVec n} (h : x.toNat = y.toNat) :
    x.setWidth 64 = y.setWidth 64 :=
  BitVec.eq_of_toNat_eq (by simp [h])

/-- A field whose value fits m bits is filled by its low m bits. -/
theorem setWidth_setWidth_of_lt {m n : Nat} {x : BitVec n} (h : x.toNat < 2 ^ m) :
    (x.setWidth m).setWidth 64 = x.setWidth 64 :=
  setWidth_eq_of_toNat_eq ((BitVec.toNat_setWidth _ _).trans (Nat.mod_eq_of_lt h))

end Sys2Proof.Proofs

/-! ## What decode answers (30_encoding.md R120) -/

namespace Sys2Proof.Proofs

/-! ### The operand decode of each format, from the operands the word holds -/

@[simp] theorem selOf_selBits (sel : DacSel) : selOf (selBits sel) = some sel := by cases sel <;> rfl

theorem selBits_of_selOf {b : BitVec 2} {sel : DacSel} (h : selOf b = some sel) : selBits sel = b := by
  unfold selOf at h
  split_ifs at h <;> (cases h; subst b; rfl)

/-- Format SET: REG before VAL (R108, R109). -/
theorem decodeSet_of_fields {w : Word64} {reg : Byte} {val : BitVec 16} (hreg : w.extractLsb' 16 8 = reg)
    (hval : w.extractLsb' 0 16 = val) :
    decodeSet w = if 128 ≤ reg.toNat then .error (.registerRange w) else if 512 ≤ val.toNat then .error (.valueRange w)
      else .ok (.codecSet (reg.setWidth 7) (val.setWidth 9)) := by
  subst hreg hval
  rw [BitVec.setWidth_extractLsb'_of_le (by decide), BitVec.setWidth_extractLsb'_of_le (by decide), decodeSet]

/-- Format GET: a field below 10 is the cell's index (R111). -/
theorem decodeGet_of_field {w : Word64} {reg : Byte} (hreg : w.extractLsb' 16 8 = reg) (hlt : reg.toNat < 10) :
    decodeGet w = .ok (.codecGet ⟨reg.toNat, hlt⟩) := by
  subst hreg
  exact dif_pos hlt

/-- ADDR is an 8-bit field; it holds a strap address when its top bit is 0 and its low seven are one (R113). -/
theorem strap_iff (p : Config.Params) (addr : Byte) :
    (addr.getLsbD 7 == false && addrLegal p (addr.setWidth 7)) = true ↔
      addr = p.codecAddrLow.setWidth 8 ∨ addr = p.codecAddrHigh.setWidth 8 := by
  have hwiden (a : Bits7) : addr.getLsbD 7 = false ∧ addr.setWidth 7 = a ↔ addr = a.setWidth 8 := by
    constructor
    · rintro ⟨htop, rfl⟩
      apply BitVec.eq_of_getLsbD_eq
      intro j hj
      interval_cases j <;> simp_all
    · rintro rfl
      simp
  simp [addrLegal, ← hwiden, and_or_left]

/-- Format CB: ADDR before FMT (R113, R114). -/
theorem decodeCb_of_fields (p : Config.Params) {w : Word64} {addr fmt wl : Byte} {rate : BitVec 32}
    (haddr : w.extractLsb' 48 8 = addr) (hfmt : w.extractLsb' 40 8 = fmt) (hwl : w.extractLsb' 32 8 = wl)
    (hrate : w.extractLsb' 0 32 = rate) :
    decodeCb p w = if ¬ (addr = p.codecAddrLow.setWidth 8 ∨ addr = p.codecAddrHigh.setWidth 8) then
        .error (.addressRange w)
      else if ¬ fmt.toNat < 2 ^ p.fmtBits then .error (.formatRange w)
      else .ok (.codecBegin (addr.setWidth 7) fmt wl rate) := by
  have htop : w.getLsbD 55 = addr.getLsbD 7 := by simp [← haddr]
  have hlow : w.extractLsb' 48 7 = addr.setWidth 7 := by
    rw [← haddr, BitVec.setWidth_extractLsb'_of_le (by decide)]
  simp only [decodeCb, htop, hlow, hfmt, hwl, hrate, ← strap_iff, fmtLegal, Bool.not_eq_true', decide_eq_false_iff_not,
    Bool.not_eq_true]

/-! ### Decode of a word that is a row and operand bits -/

/-- Operand bits the row's mask clears select the row (R103). -/
theorem decode_row_or (p : Config.Params) (o : Opcode) {x : Word64} (hx : x &&& o.rowMask = 0#64) :
    decode p (o.row ||| x) = decodeOperands p o (o.row ||| x) := by
  apply decode_of_row
  rw [BitVec.and_comm, BitVec.and_or_distrib_left, BitVec.and_comm _ x, hx, BitVec.or_zero, BitVec.and_comm,
    Laws.EncodeSelectsRow.row_in_mask]

/-! ### The three checks -/

/-- The operand check answers no reason of the first two checks. -/
theorem decodeOperands_ne_earlier (p : Config.Params) (o : Opcode) (w : Word64) :
    decodeOperands p o w ≠ .error (.unknownOpcode w) ∧ decodeOperands p o w ≠ .error (.reservedBitSet w) := by
  cases o with
  | dacBegin | codecReset | codecSetActive | codecSetInactive | dacWrite | dacWriteFast =>
    simp [decodeOperands, decodeDw2]
  | dacWriteData | dacWriteDataFast =>
    simp only [decodeOperands, decodeDw]
    split <;> simp
  | codecSetInputVolume | codecSetOutputVolume =>
    simp only [decodeOperands, decodeVol]
    split <;> simp
  | codecSet =>
    simp only [decodeOperands, decodeSet]
    split_ifs <;> simp
  | codecGet =>
    simp only [decodeOperands, decodeGet]
    split <;> simp
  | codecBegin =>
    simp only [decodeOperands, decodeCb]
    split_ifs <;> simp

/-- What decode can do with a word: refuse its opcode, refuse a reserved bit of its format, or check the operands of the
row it selects (R120). -/
theorem decode_cases (p : Config.Params) (w : Word64) :
    (opcodeOf (opByte w) = none ∧ decode p w = .error (.unknownOpcode w)) ∨
    (∃ o : Opcode, opByte w = o.code ∧ w &&& o.format.reserved ≠ 0#64 ∧ decode p w = .error (.reservedBitSet w)) ∨
    (∃ o : Opcode, w &&& o.rowMask = o.row ∧ decode p w = decodeOperands p o w) := by
  cases hop : opcodeOf (opByte w) with
  | none => exact .inl ⟨rfl, by simp [decode, hop]⟩
  | some o =>
    have hcode := (code_of_opcodeOf hop).symm
    by_cases hres : w &&& o.format.reserved = 0#64
    · have hrow := row_of_opByte hcode hres
      exact .inr (.inr ⟨o, hrow, decode_of_row p hrow⟩)
    · exact .inr (.inl ⟨o, hcode, hres, by simp [decode, hop, hres]⟩)

theorem opcodeOf_eq_none_iff {b : Byte} : opcodeOf b = none ↔ ∀ o : Opcode, b ≠ o.code := by
  constructor
  · rintro h o rfl
    simp [opcodeOf_code] at h
  · intro h
    cases hop : opcodeOf b with
    | none => rfl
    | some o => exact absurd (code_of_opcodeOf hop).symm (h o)

/-- Column OP leaves out exactly these codes (R104, R105). -/
theorem unassigned_iff {b : Byte} :
    (b = 0x00#8 ∨ (0x06#8 ≤ b ∧ b ≤ 0x0F#8) ∨ 0x18#8 ≤ b) ↔ ∀ o : Opcode, b ≠ o.code := by
  constructor
  · intro h o
    cases o <;> simp only [Opcode.code] <;> bv_omega
  · intro h
    have hall : ∀ o ∈ Opcode.all, b ≠ o.code := fun o _ => h o
    simp only [Opcode.all, List.forall_mem_cons, Opcode.code] at hall
    bv_omega

theorem decode_eq_unknownOpcode_iff {p : Config.Params} {w : Word64} :
    decode p w = .error (.unknownOpcode w) ↔ opcodeOf (opByte w) = none := by
  obtain ⟨hnone, hd⟩ | ⟨o, hcode, -, hd⟩ | ⟨o, hrow, hd⟩ := decode_cases p w
  · simp [hnone, hd]
  · simp [hcode, opcodeOf_code, hd]
  · simp [opByte_of_row hrow, opcodeOf_code, hd, (decodeOperands_ne_earlier p o w).1]

/-- Settles O6: the decoder's lookup finds no row exactly for the codes the column leaves out. -/
theorem unassignedOpcodesRefused : Obligations.UnassignedOpcodesRefused := by
  have hrefused (p : Config.Params) (w : Word64) :
      (opByte w = 0x00#8 ∨ (0x06#8 ≤ opByte w ∧ opByte w ≤ 0x0F#8) ∨ 0x18#8 ≤ opByte w) ↔
        decode p w = .error (.unknownOpcode w) := by
    rw [unassigned_iff, decode_eq_unknownOpcode_iff, opcodeOf_eq_none_iff]
  exact ⟨hrefused, fun p => (hrefused p 0#64).mp (.inl (by decide))⟩

theorem decode_eq_reservedBitSet_iff {p : Config.Params} {w : Word64} {o : Opcode} (hcode : opByte w = o.code) :
    decode p w = .error (.reservedBitSet w) ↔ w &&& o.format.reserved ≠ 0#64 := by
  by_cases hres : w &&& o.format.reserved = 0#64
  · rw [decode_of_row p (row_of_opByte hcode hres)]
    simp [hres, (decodeOperands_ne_earlier p o w).2]
  · simp [decode, hcode, opcodeOf_code, hres]

/-- Settles O7: the first two checks refuse every word that selects no row, and the operand check of a row answers
other reasons. -/
theorem reservedBitsRefused : Obligations.ReservedBitsRefused := by
  refine ⟨fun p w o hcode => (decode_eq_reservedBitSet_iff hcode).symm, fun p w => ⟨?_, ?_⟩⟩
  · rintro ⟨o, hrow⟩
    rw [decode_of_row p hrow]
    exact decodeOperands_ne_earlier p o w
  · rintro ⟨hopcode, hreserved⟩
    obtain ⟨-, hd⟩ | ⟨o, -, -, hd⟩ | ⟨o, hrow, -⟩ := decode_cases p w
    · exact absurd hd hopcode
    · exact absurd hd hreserved
    · exact ⟨o, hrow⟩

/-! ### Round trips -/

/-- The opcode and the operand bits of the command that a word's operand check answers (R102, R104). -/
theorem operandBits_of_decodeOperands {p : Config.Params} {o : Opcode} {w : Word64} {i : Instr}
    (h : decodeOperands p o w = .ok i) : i.opcode = o ∧ operandBits i = w &&& ~~~o.rowMask := by
  cases o with
  | dacBegin | codecReset | codecSetActive | codecSetInactive =>
    cases h
    exact ⟨rfl, BitVec.and_zero.symm.trans (congrArg (w &&& ·) (by decide))⟩
  | dacWrite | dacWriteFast =>
    cases h
    refine ⟨rfl, ?_⟩
    simp only [operandBits, field_of_extract, low_field_of_extract, ← BitVec.and_or_distrib_left]
    exact congrArg (w &&& ·) (by decide)
  | dacWriteData | dacWriteDataFast =>
    simp only [decodeOperands, decodeDw] at h
    split at h
    · cases h
    · next sel hsel =>
      cases h
      refine ⟨rfl, ?_⟩
      simp only [operandBits, selBits_of_selOf hsel, field_of_extract, low_field_of_extract,
        ← BitVec.and_or_distrib_left]
      exact congrArg (w &&& ·) (by decide)
  | codecSetInputVolume | codecSetOutputVolume =>
    simp only [decodeOperands, decodeVol] at h
    split at h <;> cases h
    refine ⟨rfl, ?_⟩
    rw [operandBits, low_field_of_extract]
    exact congrArg (w &&& ·) (by decide)
  | codecSet =>
    simp only [decodeOperands, decodeSet_of_fields rfl rfl] at h
    split_ifs at h with hreg hval
    cases h
    refine ⟨rfl, ?_⟩
    have hregfield : ((w.extractLsb' 16 8).setWidth 7).setWidth 64 = (w.extractLsb' 16 8).setWidth 64 :=
      setWidth_setWidth_of_lt (not_le.mp hreg)
    have hvalfield : ((w.extractLsb' 0 16).setWidth 9).setWidth 64 = (w.extractLsb' 0 16).setWidth 64 :=
      setWidth_setWidth_of_lt (not_le.mp hval)
    simp only [operandBits, field_of_extract, low_field_of_extract, ← BitVec.and_or_distrib_left, hregfield, hvalfield]
    exact congrArg (w &&& ·) (by decide)
  | codecGet =>
    simp only [decodeOperands, decodeGet] at h
    split at h
    · cases h
      refine ⟨rfl, ?_⟩
      rw [operandBits, setWidth_eq_of_toNat_eq (y := w.extractLsb' 16 8) (Machine.toReg_toNat _), field_of_extract]
      exact congrArg (w &&& ·) (by decide)
    · cases h
  | codecBegin =>
    simp only [decodeOperands, decodeCb_of_fields p rfl rfl rfl rfl] at h
    split_ifs at h with hstrap hfmt
    cases h
    refine ⟨rfl, ?_⟩
    have haddr : ((w.extractLsb' 48 8).setWidth 7).setWidth 64 = (w.extractLsb' 48 8).setWidth 64 := by
      obtain hlow | hhigh := hstrap
      · simp [hlow]
      · simp [hhigh]
    simp only [operandBits, field_of_extract, low_field_of_extract, ← BitVec.and_or_distrib_left, haddr]
    exact congrArg (w &&& ·) (by decide)

/-- Settles O5: the opcode bits and the operand bits of the command are those of the word, and no other bit is set. -/
theorem encodeOfDecodedWord : Obligations.EncodeOfDecodedWord := by
  intro p w i h
  refine ⟨?_, wf_of_decode h⟩
  obtain ⟨-, hd⟩ | ⟨o, -, -, hd⟩ | ⟨o, hrow, hd⟩ := decode_cases p w
  · simp [hd] at h
  · simp [hd] at h
  · obtain ⟨hopcode, hbits⟩ := operandBits_of_decodeOperands (hd ▸ h)
    rw [encode, hopcode, hbits, ← hrow, ← BitVec.and_or_distrib_left, BitVec.or_not_self, BitVec.and_allOnes]

/-- Settles O4: the operand check of the command's own row reads every operand back from its field. -/
theorem decodeOfEncodedCommand : Obligations.DecodeOfEncodedCommand := by
  intro p i hwf
  rw [decode_encode_operands, encode]
  cases i with
  | dacBegin | codecReset | codecSetActive | codecSetInactive => rfl
  | dacWriteData sel value | dacWriteDataFast sel value =>
    simp [Instr.opcode, operandBits, decodeOperands, decodeDw, BitVec.extractLsb'_or]
  | dacWrite va vb | dacWriteFast va vb =>
    simp [Instr.opcode, operandBits, decodeOperands, decodeDw2, BitVec.extractLsb'_or]
  | codecSetInputVolume vol | codecSetOutputVolume vol =>
    rw [Instr.wf] at hwf
    simp [Instr.opcode, operandBits, decodeOperands, decodeVol, hwf]
  | codecSet reg val =>
    have hreg : (reg.setWidth 8).toNat < 128 := by simp; omega
    have hval : (val.setWidth 16).toNat < 512 := by simp; omega
    simp only [Instr.opcode, operandBits, decodeOperands]
    rw [decodeSet_of_fields (reg := reg.setWidth 8) (val := val.setWidth 16) (by simp [BitVec.extractLsb'_or])
      (by simp [BitVec.extractLsb'_or]), if_neg (by omega), if_neg (by omega)]
    simp
  | codecGet reg =>
    have hreg : (reg.toReg.setWidth 8).toNat = reg.val := by simp; omega
    simp only [Instr.opcode, operandBits, decodeOperands]
    rw [decodeGet_of_field (reg := reg.toReg.setWidth 8) (by simp) (hreg ▸ reg.isLt)]
    simp [hreg]
  | codecBegin addr fmt wl rate =>
    obtain ⟨haddr, hfmt⟩ : (addr = p.codecAddrLow ∨ addr = p.codecAddrHigh) ∧ fmt.toNat < 2 ^ p.fmtBits := by
      simpa [Instr.wf, addrLegal, fmtLegal] using hwf
    have hstrap : addr.setWidth 8 = p.codecAddrLow.setWidth 8 ∨ addr.setWidth 8 = p.codecAddrHigh.setWidth 8 :=
      haddr.imp (congrArg _) (congrArg _)
    simp only [Instr.opcode, operandBits, decodeOperands]
    rw [decodeCb_of_fields p (addr := addr.setWidth 8) (fmt := fmt) (wl := wl) (rate := rate)
      (by simp [BitVec.extractLsb'_or]) (by simp [BitVec.extractLsb'_or]) (by simp [BitVec.extractLsb'_or])
      (by simp [BitVec.extractLsb'_or]), if_neg (not_not.mpr hstrap), if_neg (not_not.mpr hfmt)]
    simp

/-- A word decodes to a command exactly when it is the command's word and the command is well formed. -/
theorem decode_eq_ok_iff {p : Config.Params} {w : Word64} {i : Instr} :
    decode p w = .ok i ↔ encode i = w ∧ i.wf p = true := by
  constructor
  · exact encodeOfDecodedWord p w i
  · rintro ⟨rfl, hwf⟩
    exact decodeOfEncodedCommand p i hwf

/-- Settles O13: each word is the word of its command. -/
theorem sampleWordsDecode : Obligations.SampleWordsDecode := by
  simp only [Obligations.SampleWordsDecode, decode_eq_ok_iff]
  decide

end Sys2Proof.Proofs

/-! ## The words of each format with an operand check (30_encoding.md R106 to R116) -/

namespace Sys2Proof.Proofs

open Sys2Proof.Machine
open Laws.EncodeSelectsRow (field_clear field_clear_low or_clear)

/-- SEL 3 names no selector (R106). -/
theorem decodeDw_of_sel3 (mk : DacSel → BitVec 16 → Instr) {w : Word64} (hsel : w.extractLsb' 16 2 = 3#2) :
    decodeDw mk w = .error (.selReserved w) := by
  simp [decodeDw, hsel, selOf]

/-- Settles O8: SEL 3 fails the operand check of either row, and the other words are those of the six commands. -/
theorem selectorWordsDecode : Obligations.SelectorWordsDecode := by
  intro p v
  refine ⟨?_, ?_⟩
  · have hclear : (3#64 <<< 16 ||| v.setWidth 64) &&& Opcode.rowMask .dacWriteData = 0#64 :=
      or_clear (by decide) (field_clear_low _ _ (by decide))
    have hsel (o : Opcode) : (o.row ||| (3#64 <<< 16 ||| v.setWidth 64)).extractLsb' 16 2 = 3#2 := by
      rw [extract_row_or o _ (by decide), BitVec.extractLsb'_or, extract_low_field_of_end_le v (by decide)]
      decide
    rintro op (rfl | rfl)
    · rw [BitVec.or_assoc]
      exact (decode_row_or p .dacWriteData hclear).trans (decodeDw_of_sel3 _ (hsel _))
    · rw [BitVec.or_assoc]
      exact (decode_row_or p .dacWriteDataFast hclear).trans (decodeDw_of_sel3 _ (hsel _))
  · simp [decode_eq_ok_iff, encode, Instr.opcode, operandBits, selBits, row_literals, Instr.wf, cmdCode,
      ← BitVec.or_assoc]

/-- Settles O9: the word selects the row of CODEC_SET and holds REG and VAL in their fields. -/
theorem setWordsDecode : Obligations.SetWordsDecode := by
  intro p reg val w
  have hw : w = Opcode.row .codecSet ||| (reg.setWidth 64 <<< 16 ||| val.setWidth 64) := BitVec.or_assoc _ _ _
  have hclear : (reg.setWidth 64 <<< 16 ||| val.setWidth 64) &&& Opcode.rowMask .codecSet = 0#64 :=
    or_clear (field_clear _ _ _ (by decide)) (field_clear_low _ _ (by decide))
  have hdecode : decode p w = decodeSet w := hw ▸ decode_row_or p .codecSet hclear
  rw [hdecode, decodeSet_of_fields (reg := reg) (val := val) (by simp [hw, BitVec.extractLsb'_or])
    (by simp [hw, BitVec.extractLsb'_or])]
  refine ⟨fun hreg => if_pos hreg, fun hreg hval => ?_, fun hreg hval => ?_⟩
  · rw [if_neg (by omega), if_pos (by omega)]
  · rw [if_neg (by omega), if_neg (by omega)]

theorem decodeVol_of_row (legal : Byte → Bool) (mk : Byte → Instr) (o : Opcode) (vol : Byte) :
    decodeVol legal mk (o.row ||| vol.setWidth 64) =
      if legal vol then .ok (mk vol) else .error (.volumeRange (o.row ||| vol.setWidth 64)) := by
  simp [decodeVol]

/-- Settles O10: each volume word selects its row and holds the volume code in its field. -/
theorem volumeWordsDecode : Obligations.VolumeWordsDecode := by
  intro p vol wIn wOut
  have hclear : vol.setWidth 64 &&& Opcode.rowMask .codecSetInputVolume = 0#64 := field_clear_low _ _ (by decide)
  have hIn : decode p wIn =
      if inVolLegal vol then .ok (.codecSetInputVolume vol) else .error (.volumeRange wIn) :=
    (decode_row_or p .codecSetInputVolume hclear).trans (decodeVol_of_row _ _ _ _)
  have hOut : decode p wOut =
      if outVolLegal vol then .ok (.codecSetOutputVolume vol) else .error (.volumeRange wOut) :=
    (decode_row_or p .codecSetOutputVolume hclear).trans (decodeVol_of_row _ _ _ _)
  rw [hIn, hOut]
  simp +contextual [inVolLegal, outVolLegal]

/-- Settles O11: the word selects the row of CODEC_GET and holds REG in its field. -/
theorem getWordsDecode : Obligations.GetWordsDecode := by
  intro p reg w
  have hw : w = Opcode.row .codecGet ||| reg.setWidth 64 <<< 16 := rfl
  have hdecode : decode p w = decodeGet w := hw ▸ decode_row_or p .codecGet (field_clear _ _ _ (by decide))
  have hreg : w.extractLsb' 16 8 = reg := by simp [hw]
  rw [hdecode]
  refine ⟨decodeGet_of_field hreg, fun hge => ?_⟩
  rw [decodeGet, dif_neg (by rw [hreg]; omega)]

/-- Settles O12: the word selects the row of CODEC_BEGIN and holds ADDR, FMT, WL and RATE in their fields. -/
theorem beginWordsDecode : Obligations.BeginWordsDecode := by
  intro p addr fmt wl rate w strap
  have hw : w = Opcode.row .codecBegin ||| (addr.setWidth 64 <<< 48 ||| fmt.setWidth 64 <<< 40 |||
      wl.setWidth 64 <<< 32 ||| rate.setWidth 64) := by
    simp only [w, BitVec.or_assoc]
    rfl
  have hdecode : decode p w = decodeCb p w := by
    rw [hw]
    exact decode_row_or p .codecBegin (or_clear (or_clear (or_clear (field_clear _ _ _ (by decide))
      (field_clear _ _ _ (by decide))) (field_clear _ _ _ (by decide))) (field_clear_low _ _ (by decide)))
  rw [hdecode, decodeCb_of_fields p (addr := addr) (fmt := fmt) (wl := wl) (rate := rate)
    (by simp [hw, BitVec.extractLsb'_or]) (by simp [hw, BitVec.extractLsb'_or])
    (by simp [hw, BitVec.extractLsb'_or]) (by simp [hw, BitVec.extractLsb'_or])]
  refine ⟨fun hstrap => if_pos hstrap, fun hstrap hfmt => ?_, fun hstrap hfmt => ?_⟩
  · rw [if_neg (not_not.mpr hstrap), if_pos (not_lt.mpr hfmt)]
  · rw [if_neg (not_not.mpr hstrap), if_neg (not_not.mpr hfmt)]

/-! ## Assembly text (30_encoding.md R125) -/

/-- Settles O14: the assembler runs on the six lines. -/
theorem sampleAssemblyWords : Obligations.SampleAssemblyWords := by
  unfold Obligations.SampleAssemblyWords
  decide

/-! ## A dual write is two single writes (30_encoding.md R126) -/

/-- What a single write needs of its framing: it keeps the instantiation and `begun`, and a command that ends in it
completes in the same state whatever the result port held before. -/
structure IsFraming (frame : Byte → Byte → State → State) : Prop where
  inst : ∀ b0 b1 s, (frame b0 b1 s).inst = s.inst
  begun : ∀ b0 b1 s, (frame b0 b1 s).dac.begun = s.dac.begun
  complete : ∀ b0 b1 s v, complete (frame b0 b1 { s with result := v }) = complete (frame b0 b1 s)

theorem delayedFrame_isFraming : IsFraming delayedFrame where
  inst b0 b1 s := by simp [delayedFrame_eq]
  begun b0 b1 s := by simp [delayedFrame_eq]
  complete b0 b1 s v := by simp [delayedFrame_eq, complete, completeWith]

theorem fastFrame_isFraming : IsFraming fastFrame where
  inst b0 b1 s := by simp [fastFrame_eq]
  begun b0 b1 s := by simp [fastFrame_eq]
  complete b0 b1 s v := by simp [fastFrame_eq, complete, completeWith]

/-- After the first single write the unit is begun as before, and the second completes where the dual write does,
whatever word each command would fault with. -/
theorem dacWriteTwo_eq_singles {frame : Byte → Byte → State → State} (hframe : IsFraming frame) (wB wA w : Word64)
    (va vb : BitVec 16) {s : State} (hbegun : s.dac.begun = true) :
    ∃ t u : State, requireBegun wB s (dacWriteOne frame .buf vb) = .next t ∧
      requireBegun wA t (dacWriteOne frame .aUpd va) = .next u ∧
      requireBegun w s (dacWriteTwo frame va vb) = .next u := by
  refine ⟨{ sendDac frame s.inst.params.dacCmdBuffer vb s with result := none }, _, requireBegun_of_begun hbegun, ?_,
    requireBegun_of_begun hbegun⟩
  have hinst : (sendDac frame s.inst.params.dacCmdBuffer vb s).inst = s.inst := hframe.inst _ _ s
  have hstill : (sendDac frame s.inst.params.dacCmdBuffer vb s).dac.begun = true := (hframe.begun _ _ s).trans hbegun
  refine Eq.trans (requireBegun_of_begun ?_) ?_
  · exact hstill
  · simp only [dacWriteOne, sendDac, cmdCode] at hinst ⊢
    rw [hframe.complete, hinst]
    rfl

/-- Settles O22: the delayed and the fast framing are cases of one argument. -/
theorem dualWriteIsTwoSingleWrites : Obligations.DualWriteIsTwoSingleWrites := by
  intro s va vb hbegun
  exact ⟨dacWriteTwo_eq_singles delayedFrame_isFraming _ _ _ va vb hbegun,
    dacWriteTwo_eq_singles fastFrame_isFraming _ _ _ va vb hbegun⟩

/-! ## A stopped block (30_encoding.md R122) -/

/-- Settles O43: a recorded fault or refusal is a reason to stop, and a step looks for one before anything else. -/
theorem stoppedBlockTakesNoStep : Obligations.StoppedBlockTakesNoStep := by
  intro s hstopped
  cases hreason : stopReason s with
  | none =>
    obtain ⟨hfault, hrefused⟩ := stopReason_eq_none.mp hreason
    simp [hfault, hrefused] at hstopped
  | some f => exact ⟨f, by simp [step, hreason]⟩

end Sys2Proof.Proofs

/-! ## What each DAC command does (40_dac.md R146 to R150) -/

namespace Sys2Proof.Proofs

open Sys2Proof.Machine

/-- Settles O17: the three operations of `DAC_BEGIN` are guarded by nothing. -/
theorem dacBeginEffect : Obligations.DacBeginEffect := by
  intro s
  refine ⟨?_, by decide⟩
  simp [exec, execDacBegin, raiseCs, emit, complete, completeWith]

/-- Settles O18: the guard, and then all a delayed frame does. -/
theorem dacWriteDataEffect : Obligations.DacWriteDataEffect := by
  intro s sel v line wait
  refine ⟨fun hbegun => ?_, requireBegun_of_not_begun, (BitVec.or_assoc _ _ _).symm⟩
  refine (requireBegun_of_begun hbegun).trans ?_
  rw [dacWriteOne, sendDac, delayedFrame_eq]
  rfl

/-- Settles O19: the guard, and then all a delayed frame does, twice. -/
theorem dacWriteEffect : Obligations.DacWriteEffect := by
  intro s va vb p line wait
  refine ⟨fun hbegun => ?_, requireBegun_of_not_begun, (BitVec.or_assoc _ _ _).symm⟩
  refine (requireBegun_of_begun hbegun).trans ?_
  simp only [dacWriteTwo, sendDac, delayedFrame_eq, List.append_assoc]
  rfl

/-- Settles O20: the guard, and then all a fast frame does. -/
theorem dacWriteDataFastEffect : Obligations.DacWriteDataFastEffect := by
  intro s sel v line
  refine ⟨fun hbegun => ?_, requireBegun_of_not_begun, (BitVec.or_assoc _ _ _).symm⟩
  refine (requireBegun_of_begun hbegun).trans ?_
  rw [dacWriteOne, sendDac, fastFrame_eq]
  rfl

/-- Settles O21: the guard, and then all a fast frame does, twice. -/
theorem dacWriteFastEffect : Obligations.DacWriteFastEffect := by
  intro s va vb p line
  refine ⟨fun hbegun => ?_, requireBegun_of_not_begun, (BitVec.or_assoc _ _ _).symm⟩
  refine (requireBegun_of_begun hbegun).trans ?_
  simp only [dacWriteTwo, sendDac, fastFrame_eq, List.append_assoc]
  rfl

end Sys2Proof.Proofs

/-! ## The trace is made of complete frames (40_dac.md R141, R142, R152) -/

namespace Sys2Proof.Proofs

open Sys2Proof.Machine Sys2Proof.Safety

/-- The events start and end outside a window, and every window in them is a complete frame (R152). -/
def Framed (p : Config.Params) (es : List Event) : Prop := es.foldlM (FramePhase.next p) .idle = some .idle

theorem wellFramed_iff (s : State) : WellFramed s ↔ Framed s.inst.params s.trace := .rfl

theorem Framed.append {p : Config.Params} {es es' : List Event} (h : Framed p es) (h' : Framed p es') :
    Framed p (es ++ es') := by
  rw [Framed, List.foldlM_append, h]
  exact h'

theorem framed_of_codec {p : Config.Params} {es : List Event} (hes : ∀ e ∈ es, e.unit = .codec) : Framed p es := by
  induction es with
  | nil => rfl
  | cons e es ih =>
    obtain ⟨he, hrest⟩ := List.forall_mem_cons.mp hes
    cases e with
    | i2cInit | delayMs | i2cWrite => exact ih hrest
    | _ => cases he

section
variable (p : Config.Params)

/-- The phases of the events of `DAC_BEGIN` (R146). -/
theorem next_begin :
    (∀ mode div, FramePhase.next p .idle (.spiConfig .msbFirst mode div) = some .idle) ∧
    FramePhase.next p .idle (.csOutput p.dacCsLine) = some .idle ∧
    FramePhase.next p .idle (.csHigh p.dacCsLine) = some .idle :=
  ⟨fun _ _ => rfl, if_pos rfl, if_pos rfl⟩

/-- The phases of a delayed frame, in the order of its events (R141). -/
theorem next_delayedFrame :
    FramePhase.next p .idle (.csLow p.dacCsLine) = some .asserted ∧
    FramePhase.next p .asserted (.delayUs p.tSettleUs) = some .delayedNone ∧
    (∀ b, FramePhase.next p .delayedNone (.spiXfer b) = some .delayedOne) ∧
    (∀ b, FramePhase.next p .delayedOne (.spiXfer b) = some .delayedTwo) ∧
    FramePhase.next p .delayedTwo (.delayUs p.tSettleUs) = some .delayedSettled ∧
    FramePhase.next p .delayedSettled (.csHigh p.dacCsLine) = some .idle :=
  ⟨if_pos rfl, if_pos rfl, fun _ => rfl, fun _ => rfl, if_pos rfl, if_pos rfl⟩

/-- The phases of a fast frame, in the order of its events (R142). -/
theorem next_fastFrame :
    FramePhase.next p .idle (.csLow p.dacCsLine) = some .asserted ∧
    FramePhase.next p .asserted .irqOff = some .fastNone ∧
    (∀ b, FramePhase.next p .fastNone (.spiXfer b) = some .fastOne) ∧
    (∀ b, FramePhase.next p .fastOne (.spiXfer b) = some .fastTwo) ∧
    FramePhase.next p .fastTwo .irqOn = some .fastReleased ∧
    FramePhase.next p .fastReleased (.csHigh p.dacCsLine) = some .idle :=
  ⟨if_pos rfl, rfl, fun _ => rfl, fun _ => rfl, rfl, if_pos rfl⟩

end

theorem DacOp.keeps_framed {s t : State} (hop : DacOp s t) (hs : Framed s.inst.params s.trace) :
    Framed s.inst.params t.trace := by
  cases hop with
  | begin => exact hs.append (by simp [Framed, next_begin])
  | delayedFrame =>
    rw [sendDac, delayedFrame_eq]
    exact hs.append (by simp [Framed, next_delayedFrame])
  | fastFrame =>
    rw [sendDac, fastFrame_eq]
    exact hs.append (by simp [Framed, next_fastFrame])

/-- Settles O55: every operation of a command appends complete frames or events outside windows. -/
theorem stepKeepsWellFramed : Obligations.StepKeepsWellFramed := by
  intro s t
  refine step_keeps (fun s t h => by simp [wellFramed_iff, h.inst, h.trace]) fun i s t hop hs => ?_
  rw [wellFramed_iff] at hs ⊢
  rw [hop.samePorts.inst]
  cases hop with
  | dac hop => exact hop.keeps_framed hs
  | codec hop =>
    obtain ⟨es, htrace, hunit⟩ := hop.trace_append
    exact htrace ▸ hs.append (framed_of_codec hunit)

end Sys2Proof.Proofs

/-! ## The two bytes of a DAC frame (40_dac.md R143, R151) -/

namespace Sys2Proof.Proofs

open Sys2Proof.Machine

/-- Settles O15: both forms read the value's bits 11:8 and 7:0. -/
theorem dacBytesAreWireFormat : Obligations.DacBytesAreWireFormat := by
  intro c code v
  have hhigh : (v.extractLsb' 8 4).setWidth 8 = (((v &&& 0x0FFF#16) >>> 8) &&& 0x0F#16).setWidth 8 := by
    apply BitVec.eq_of_getLsbD_eq
    intro k hk
    interval_cases k <;> simp
  have hlow : v.extractLsb' 0 8 = ((v &&& 0x0FFF#16) &&& 0xFF#16).setWidth 8 := by
    apply BitVec.eq_of_getLsbD_eq
    intro k hk
    interval_cases k <;> simp
  exact ⟨by rw [dacByte0, hhigh], hlow⟩

section
variable {c : Config.Instantiation}

theorem code_low_nibble (hlegal : Config.Legal c.params) (sel : DacSel) :
    (cmdCode c.params sel).extractLsb' 0 4 = 0#4 := by
  have hcode : cmdCode c.params sel &&& 0x0F#8 = 0#8 := by
    obtain ⟨-, ⟨⟨hBBuf, -⟩, ⟨hBuf, -⟩, ⟨hAUpd, -⟩, -⟩, -⟩ := hlegal
    cases sel with
    | bBuf => exact hBBuf
    | buf => exact hBuf
    | aUpd => exact hAUpd
  have h := congrArg (BitVec.extractLsb' 0 4) hcode
  rwa [BitVec.extractLsb'_and, show (0x0F#8).extractLsb' 0 4 = BitVec.allOnes 4 from rfl, BitVec.and_allOnes] at h

theorem controlBit_low_nibble {b : Byte} (hb : Config.ControlBit b) : b.extractLsb' 0 4 = 0#4 := by
  obtain rfl | rfl := hb <;> rfl

theorem control_low_nibble (hlegal : Config.Legal c.params) :
    (c.params.dacCtrlFast ||| c.params.dacCtrlPowerdown).extractLsb' 0 4 = 0#4 := by
  obtain ⟨-, ⟨-, -, -, -, -, -, -, -, hfast, hdown, -⟩, -⟩ := hlegal
  rw [BitVec.extractLsb'_or, controlBit_low_nibble hfast, controlBit_low_nibble hdown, BitVec.or_zero]

/-- The flags choose among the control bits (10_state.md R37). -/
theorem controlByte_and_control :
    controlByte c &&& (c.params.dacCtrlFast ||| c.params.dacCtrlPowerdown) = controlByte c := by
  apply BitVec.eq_of_getLsbD_eq
  intro k hk
  cases hF : c.ctrlFast <;> cases hP : c.ctrlPowerDown <;> simp +contextual [controlByte, hF, hP]

theorem controlByte_low_nibble (hlegal : Config.Legal c.params) : (controlByte c).extractLsb' 0 4 = 0#4 := by
  rw [← controlByte_and_control, BitVec.extractLsb'_and, control_low_nibble hlegal, BitVec.and_zero]

theorem dacByte0_low_nibble (hlegal : Config.Legal c.params) (sel : DacSel) (v : BitVec 16) :
    (dacByte0 c (cmdCode c.params sel) v).extractLsb' 0 4 = v.extractLsb' 8 4 := by
  rw [dacByte0, BitVec.extractLsb'_or, BitVec.extractLsb'_or, code_low_nibble hlegal, controlByte_low_nibble hlegal,
    BitVec.or_zero, BitVec.or_zero, ← BitVec.setWidth_eq_extractLsb' (by decide)]
  simp

/-- The frame carries bits 11:0 of the value (40_dac.md R143). -/
theorem dacBytes_value (hlegal : Config.Legal c.params) (sel : DacSel) (v : BitVec 16) :
    (dacByte0 c (cmdCode c.params sel) v).extractLsb' 0 4 ++ dacByte1 v = v.extractLsb' 0 12 := by
  rw [dacByte0_low_nibble hlegal]
  exact BitVec.extractLsb'_append_extractLsb'_eq_extractLsb' rfl

theorem nibble_and_of_low_nibble {m : Byte} (hm : m.extractLsb' 0 4 = 0#4) (x : BitVec 4) :
    x.setWidth 8 &&& m = 0#8 := by
  apply BitVec.eq_of_getLsbD_eq
  intro k hk
  by_cases hlow : k < 4
  · have hbit : m.getLsbD k = false := by simpa [hlow] using congrArg (BitVec.getLsbD · k) hm
    rw [BitVec.getLsbD_and, hbit, Bool.and_false, BitVec.getLsbD_zero]
  · simp [BitVec.getLsbD_of_ge x k (by omega)]

theorem code_and_control (hlegal : Config.Legal c.params) (sel : DacSel) :
    cmdCode c.params sel &&& (c.params.dacCtrlFast ||| c.params.dacCtrlPowerdown) = 0#8 := by
  have hcode := code_and_field hlegal sel
  obtain ⟨-, ⟨-, -, -, -, -, -, -, hfield, -⟩, -⟩ := hlegal
  rw [← hcode, BitVec.and_assoc, hfield, BitVec.and_zero]

theorem dacByte0_and_control (hlegal : Config.Legal c.params) (sel : DacSel) (v : BitVec 16) :
    dacByte0 c (cmdCode c.params sel) v &&& (c.params.dacCtrlFast ||| c.params.dacCtrlPowerdown) = controlByte c := by
  rw [dacByte0, BitVec.and_or_distrib_right, BitVec.and_or_distrib_right,
    nibble_and_of_low_nibble (control_low_nibble hlegal), code_and_control hlegal, controlByte_and_control,
    BitVec.zero_or, BitVec.zero_or]

end

/-- The value's low 12 bits, at its own width. -/
theorem extract_value_eq_and (v : BitVec 16) : (v.extractLsb' 0 12).setWidth 16 = v &&& 0x0FFF#16 := by
  rw [← BitVec.setWidth_eq_extractLsb' (by decide)]
  apply BitVec.eq_of_getLsbD_eq
  intro k hk
  interval_cases k <;> simp

/-- Settles O16: nibble, code and control bits of the first byte lie in three disjoint fields. -/
theorem dacBytesRoundTrip : Obligations.DacBytesRoundTrip := by
  intro c sel v hlegal b0 b1
  refine ⟨?_, dacByte0_and_field hlegal sel v, dacByte0_and_control hlegal sel v⟩
  exact (congrArg (BitVec.setWidth 16) (dacBytes_value hlegal sel v)).trans (extract_value_eq_and v)

end Sys2Proof.Proofs

/-! ## What a DAC write does to the chip (20_memory.md R81 to R84, 40_dac.md R153, R154) -/

namespace Sys2Proof.Proofs

open Sys2Proof.Machine Sys2Proof.Safety

/-- The chip after a recognised frame of a selector and a value: R82 to R84, with the control byte recorded (R81). -/
def chipAfterWrite (c : Config.Instantiation) (sel : DacSel) (v : BitVec 16) (o : DacChip) : DacChip :=
  let val : Bits12 := (v &&& 0x0FFF#16).setWidth 12
  match sel with
  | .bBuf => { o with ctl := some (controlByte c), outB := some val, buf := some val }
  | .buf => { o with ctl := some (controlByte c), buf := some val }
  | .aUpd => { o with ctl := some (controlByte c), outA := some val, outB := o.buf }

/-- What stands on either side of the two transfers of a frame: a settling delay or an interrupt event. -/
structure IsPause (e : Event) : Prop where
  sees : ∀ (p : Config.Params) (o : DacChip), o.sees p e = { o with window := o.window.pause }
  noByte : spiByte e = none

theorem isPause_delayUs (n : Nat) : IsPause (.delayUs n) := ⟨fun _ _ => rfl, rfl⟩

theorem isPause_irqOff : IsPause .irqOff := ⟨fun _ _ => rfl, rfl⟩

theorem isPause_irqOn : IsPause .irqOn := ⟨fun _ _ => rfl, rfl⟩

/-- The events of one frame in either framing (40_dac.md R141, R142). -/
def dacFrame (c : Config.Instantiation) (pre post : Event) (sel : DacSel) (v : BitVec 16) : List Event :=
  [.csLow c.params.dacCsLine, pre, .spiXfer (dacByte0 c (cmdCode c.params sel) v), .spiXfer (dacByte1 v), post,
   .csHigh c.params.dacCsLine]

theorem extract_append_low {m n : Nat} (x : BitVec m) (y : BitVec n) (k : Nat) :
    (x ++ y).extractLsb' 0 (k + n) = x.extractLsb' 0 k ++ y := by
  apply BitVec.eq_of_getLsbD_eq
  intro j hj
  simp only [BitVec.getLsbD_extractLsb', BitVec.getLsbD_append, Nat.zero_add]
  by_cases hlow : j < n
  · simp [hlow, hj]
  · simp [hlow, hj, show j - n < k by omega]

section
variable {c : Config.Instantiation} {o : DacChip} {pre post : Event}

@[simp] theorem chipAfterWrite_window (sel : DacSel) (v : BitVec 16) :
    (chipAfterWrite c sel v o).window = o.window := by
  cases sel <;> rfl

/-- The value the chip reads from the frame (20_memory.md R81). -/
theorem wireWord_dacBytes_value (hlegal : Config.Legal c.params) (sel : DacSel) (v : BitVec 16) :
    (wireWord (dacByte0 c (cmdCode c.params sel) v) (dacByte1 v)).extractLsb' 0 12 = (v &&& 0x0FFF#16).setWidth 12 := by
  rw [← extract_value_eq_and, BitVec.setWidth_setWidth_of_le _ (by decide), BitVec.setWidth_eq]
  exact (extract_append_low _ _ 4).trans (dacBytes_value hlegal sel v)

theorem frame_dacBytes (hlegal : Config.Legal c.params) (sel : DacSel) (v : BitVec 16) :
    o.frame c.params (dacByte0 c (cmdCode c.params sel) v) (dacByte1 v) = chipAfterWrite c sel v o := by
  rw [DacChip.frame, dacByte0_and_field hlegal, dacByte0_and_control hlegal, wireWord_dacBytes_value hlegal]
  obtain ⟨-, ⟨-, -, -, hBBufBuf, hBBufAUpd, hBufAUpd, -⟩, -⟩ := hlegal
  cases sel with
  | bBuf => exact if_pos rfl
  | buf => exact (if_neg hBBufBuf.symm).trans (if_pos rfl)
  | aUpd => exact (if_neg hBBufAUpd.symm).trans ((if_neg hBufAUpd.symm).trans (if_pos rfl))

theorem spiBytes_dacFrame (hpre : IsPause pre) (hpost : IsPause post) (sel : DacSel) (v : BitVec 16) :
    (dacFrame c pre post sel v).filterMap spiByte = [dacByte0 c (cmdCode c.params sel) v, dacByte1 v] := by
  simp only [dacFrame, List.filterMap_cons, hpre.noByte, hpost.noByte]
  rfl

theorem after_dacFrame (hlegal : Config.Legal c.params) (hpre : IsPause pre) (hpost : IsPause post)
    (ho : o.window = .closed) (sel : DacSel) (v : BitVec 16) :
    o.after c.params (dacFrame c pre post sel v) = chipAfterWrite c sel v o := by
  obtain ⟨outA, outB, buf, ctl, window⟩ := o
  subst ho
  simp [dacFrame, hpre.sees, hpost.sees, DacChip.close, Window.open, Window.pause, Window.byte, frame_dacBytes hlegal]

end

/-- A begun unit runs a single write to its end, with one frame. -/
theorem exec_single {s : State} {i : Instr} {sel : DacSel} {v : BitVec 16} (hbegun : s.dac.begun = true)
    (hi : i = .dacWriteData sel v ∨ i = .dacWriteDataFast sel v) :
    ∃ t pre post, exec i s = .next t ∧ IsPause pre ∧ IsPause post ∧
      t.trace = s.trace ++ dacFrame s.inst pre post sel v := by
  obtain rfl | rfl := hi
  · exact ⟨_, _, _, (dacWriteDataEffect s sel v).1 hbegun, isPause_delayUs _, isPause_delayUs _, rfl⟩
  · exact ⟨_, _, _, (dacWriteDataFastEffect s sel v).1 hbegun, isPause_irqOff, isPause_irqOn, rfl⟩

/-- A begun unit runs a dual write to its end, with the buffer frame of B and the A-update-B frame of A. -/
theorem exec_dual {s : State} {i : Instr} {va vb : BitVec 16} (hbegun : s.dac.begun = true)
    (hi : i = .dacWrite va vb ∨ i = .dacWriteFast va vb) :
    ∃ t pre post, exec i s = .next t ∧ IsPause pre ∧ IsPause post ∧
      t.trace = s.trace ++ (dacFrame s.inst pre post .buf vb ++ dacFrame s.inst pre post .aUpd va) := by
  obtain rfl | rfl := hi
  · exact ⟨_, _, _, (dacWriteEffect s va vb).1 hbegun, isPause_delayUs _, isPause_delayUs _, rfl⟩
  · exact ⟨_, _, _, (dacWriteFastEffect s va vb).1 hbegun, isPause_irqOff, isPause_irqOn, rfl⟩

/-- Settles O24: the first frame only stages B, and the second moves it out with A. -/
theorem dualWriteReachesBothChannels : Obligations.DualWriteReachesBothChannels := by
  intro s va vb o i hlegal hbegun hclosed hi
  obtain ⟨t, pre, post, hexec, hpre, hpost, htrace⟩ := exec_dual hbegun hi
  have hB : o.after s.inst.params (s.trace ++ dacFrame s.inst pre post .buf vb) =
      chipAfterWrite s.inst .buf vb (o.after s.inst.params s.trace) := by
    rw [dacChip_after_append, after_dacFrame hlegal hpre hpost hclosed]
  have hA : o.after s.inst.params t.trace =
      chipAfterWrite s.inst .aUpd va (chipAfterWrite s.inst .buf vb (o.after s.inst.params s.trace)) := by
    rw [htrace, ← List.append_assoc, dacChip_after_append, hB,
      after_dacFrame hlegal hpre hpost (by simpa using hclosed)]
  have htake : t.trace.take (s.trace.length + 6) = s.trace ++ dacFrame s.inst pre post .buf vb := by
    rw [htrace, List.take_length_add_append]
    rfl
  refine ⟨t, hexec, ?_, ?_⟩
  · rw [htrace, List.drop_left, List.filterMap_append, spiBytes_dacFrame hpre hpost, spiBytes_dacFrame hpre hpost]
    rfl
  · rw [htake, hB, hA]
    exact ⟨rfl, rfl, rfl, rfl, rfl⟩

/-- Channel A is as before, or channel B holds the buffer (40_dac.md R154). -/
def AOnlyWithB (before after : DacChip) : Prop := after.outA = before.outA ∨ after.outB = after.buf

section
variable {s t : State} {o : DacChip} {i : Instr}

theorem single_on_chip {sel : DacSel} {v : BitVec 16} (hlegal : Config.Legal s.inst.params)
    (hbegun : s.dac.begun = true) (hclosed : (o.after s.inst.params s.trace).window = .closed)
    (hi : i = .dacWriteData sel v ∨ i = .dacWriteDataFast sel v) :
    ∃ t, exec i s = .next t ∧
      o.after s.inst.params t.trace = chipAfterWrite s.inst sel v (o.after s.inst.params s.trace) := by
  obtain ⟨t, pre, post, hexec, hpre, hpost, htrace⟩ := exec_single hbegun hi
  exact ⟨t, hexec, by rw [htrace, dacChip_after_append, after_dacFrame hlegal hpre hpost hclosed]⟩

theorem exec_write_of_not_begun (hbegun : s.dac.begun = false) (hunit : i.opcode.unit = .dac) (hi : i ≠ .dacBegin) :
    exec i s = .next { s with fault := some (.dacNotBegun (encode i)) } := by
  cases i with
  | dacBegin => exact absurd rfl hi
  | dacWriteData | dacWrite | dacWriteDataFast | dacWriteFast => exact requireBegun_of_not_begun hbegun
  | _ => cases hunit

theorem begin_on_chip (hclosed : (o.after s.inst.params s.trace).window = .closed)
    (hexec : exec .dacBegin s = .next t) :
    (o.after s.inst.params t.trace).outA = (o.after s.inst.params s.trace).outA := by
  rw [(dacBeginEffect s).1] at hexec
  cases hexec
  simp [dacChip_after_append, DacChip.close, Window.spoil, hclosed]

theorem single_aOnlyWithB {sel : DacSel} {v : BitVec 16} (hlegal : Config.Legal s.inst.params)
    (hbegun : s.dac.begun = true) (hclosed : (o.after s.inst.params s.trace).window = .closed)
    (hi : i = .dacWriteData sel v ∨ i = .dacWriteDataFast sel v) (hexec : exec i s = .next t) :
    AOnlyWithB (o.after s.inst.params s.trace) (o.after s.inst.params t.trace) := by
  obtain ⟨u, hexec', hchip⟩ := single_on_chip hlegal hbegun hclosed hi
  cases hexec.symm.trans hexec'
  rw [hchip]
  cases sel with
  | bBuf | buf => exact .inl rfl
  | aUpd => exact .inr rfl

theorem dual_aOnlyWithB {va vb : BitVec 16} (hlegal : Config.Legal s.inst.params)
    (hbegun : s.dac.begun = true) (hclosed : (o.after s.inst.params s.trace).window = .closed)
    (hi : i = .dacWrite va vb ∨ i = .dacWriteFast va vb) (hexec : exec i s = .next t) :
    AOnlyWithB (o.after s.inst.params s.trace) (o.after s.inst.params t.trace) := by
  obtain ⟨u, hexec', -, -, -, -, houtB, hbuf⟩ := dualWriteReachesBothChannels s va vb o i hlegal hbegun hclosed hi
  cases hexec.symm.trans hexec'
  exact .inr (houtB.trans hbuf.symm)

/-- No command writes channel A alone: it is a codec command, it faults, or it is one of the five of the DAC. -/
theorem exec_aOnlyWithB (hlegal : Config.Legal s.inst.params)
    (hclosed : (o.after s.inst.params s.trace).window = .closed) (hexec : exec i s = .next t) :
    AOnlyWithB (o.after s.inst.params s.trace) (o.after s.inst.params t.trace) := by
  by_cases hbegin : i = .dacBegin
  · exact .inl (begin_on_chip hclosed (hbegin ▸ hexec))
  cases hunit : i.opcode.unit with
  | codec =>
    obtain ⟨es, htrace, hes, -⟩ := unitsAreIndependent.1 i s t hexec
    rw [hunit] at hes
    rw [htrace, dacChip_after_append, dacChip_after_of_codec hes]
    exact .inl rfl
  | dac =>
    cases hbegun : s.dac.begun with
    | false =>
      cases hexec.symm.trans (exec_write_of_not_begun hbegun hunit hbegin)
      exact .inl rfl
    | true =>
      cases i with
      | dacBegin => exact absurd rfl hbegin
      | dacWriteData => exact single_aOnlyWithB hlegal hbegun hclosed (.inl rfl) hexec
      | dacWriteDataFast => exact single_aOnlyWithB hlegal hbegun hclosed (.inr rfl) hexec
      | dacWrite => exact dual_aOnlyWithB hlegal hbegun hclosed (.inl rfl) hexec
      | dacWriteFast => exact dual_aOnlyWithB hlegal hbegun hclosed (.inr rfl) hexec
      | _ => cases hunit

end

/-- Settles O25: one frame has the effect of its selector, and only a frame that also moves the buffer to channel B
writes channel A. -/
theorem singleWriteOnTheChip : Obligations.SingleWriteOnTheChip := by
  refine ⟨fun s sel v o i hlegal hbegun hclosed hi => ?_, fun i s t o => exec_aOnlyWithB⟩
  obtain ⟨t, hexec, hchip⟩ := single_on_chip hlegal hbegun hclosed hi
  refine ⟨t, hexec, ?_⟩
  rw [hchip]
  cases sel <;> simp [chipAfterWrite, hclosed]

end Sys2Proof.Proofs

/-! ## The register values of the codec (41_codec.md R182, R183, R186 to R188) -/

namespace Sys2Proof.Proofs

open Sys2Proof.Machine

/-- Settles O27: each lookup compares its operand with the listed lengths or rates, and answers 0 when none matches. -/
theorem codecLookups : Obligations.CodecLookups := by
  refine ⟨⟨rfl, rfl, rfl, rfl, fun wl h16 h20 h24 h32 => ?_⟩, rfl, rfl, rfl, rfl, fun rate h8000 h32000 h96000 => ?_⟩
  · exact (if_neg h16).trans ((if_neg h20).trans ((if_neg h24).trans (if_neg h32)))
  · exact (if_neg h8000).trans ((if_neg h32000).trans (if_neg h96000))

/-! ### A field placed in a register value -/

section
variable {w m s : Nat} {x : BitVec w}

theorem placed_toNat (hx : x.toNat < 2 ^ m) (hfit : s + m ≤ 9) :
    (x.setWidth 9 <<< s).toNat = x.toNat * 2 ^ s := by
  have hplaced : x.toNat * 2 ^ s < 2 ^ 9 :=
    calc x.toNat * 2 ^ s < 2 ^ m * 2 ^ s := Nat.mul_lt_mul_of_pos_right hx (Nat.two_pow_pos s)
      _ = 2 ^ (s + m) := by rw [← Nat.pow_add, Nat.add_comm]
      _ ≤ 2 ^ 9 := Nat.pow_le_pow_right (by decide) hfit
  rw [BitVec.toNat_shiftLeft, BitVec.toNat_setWidth, Nat.shiftLeft_eq, Nat.mod_mul_mod, Nat.mod_eq_of_lt hplaced]

theorem placed_outside {k : Nat} (hx : x.toNat < 2 ^ m) (hk : k < s ∨ s + m ≤ k) :
    (x.setWidth 9 <<< s).getLsbD k = false := by
  obtain hbelow | habove := hk
  · simp [hbelow]
  · have hbit : x.getLsbD (k - s) = false :=
      Nat.testBit_lt_two_pow (hx.trans_le (Nat.pow_le_pow_right (by decide) (by omega)))
    simp [hbit]

/-- A field is read back from a register value whose other parts leave its bits 0. -/
theorem placed_or_field {o : Bits9} (hx : x.toNat < 2 ^ m) (hfit : s + m ≤ 9)
    (ho : ∀ k, s ≤ k → k < s + m → o.getLsbD k = false) :
    (x.setWidth 9 <<< s ||| o).toNat / 2 ^ s % 2 ^ m = x.toNat := by
  have hother : o.toNat / 2 ^ s % 2 ^ m = 0 := by
    apply Nat.eq_of_testBit_eq
    intro j
    rw [Nat.testBit_mod_two_pow, Nat.testBit_div_two_pow, Nat.zero_testBit, BitVec.testBit_toNat]
    by_cases hj : j < m
    · rw [ho (j + s) (by omega) (by omega), Bool.and_false]
    · simp [hj]
  rw [BitVec.toNat_or, Nat.or_div_two_pow, Nat.or_mod_two_pow, hother, Nat.or_zero, placed_toNat hx hfit,
    Nat.mul_div_cancel _ (Nat.two_pow_pos s), Nat.mod_eq_of_lt hx]

end

/-- Settles O28: the two fields are disjoint under a legal parameter set, so each is read back past the other. -/
theorem interfaceFormatFields : Obligations.InterfaceFormatFields := by
  intro p fmt wl hlegal hfmt
  obtain ⟨-, -, -, -, hdisjoint, hfmtFits, hiwlFits, -⟩ := hlegal
  have hfmt : fmt.toNat < 2 ^ p.fmtBits := of_decide_eq_true hfmt
  have hiwl : (iwl wl).toNat < 2 ^ 2 := (iwl wl).isLt
  refine ⟨?_, ?_, fun k hk hk' => ?_⟩
  · exact placed_or_field hfmt hfmtFits fun k _ _ => placed_outside hiwl (by omega)
  · rw [ifaceValue, BitVec.or_comm]
    exact placed_or_field hiwl hiwlFits fun k _ _ => placed_outside hfmt (by omega)
  · rw [ifaceValue, BitVec.getLsbD_or, placed_outside hfmt hk, placed_outside hiwl hk', Bool.or_false]

/-- Settles O29: the four-bit code fits at its place. -/
theorem samplingField : Obligations.SamplingField := by
  intro p rate hlegal
  obtain ⟨-, -, -, -, -, -, -, hfits⟩ := hlegal
  exact placed_toNat (sampleRateCode rate).isLt hfits

/-! ### The volume merge -/

/-- Settles O30: bit by bit, one of the two terms is masked out. -/
theorem volumeMergeBitByBit : Obligations.VolumeMergeBitByBit := by
  intro old vol mask k hk
  have hmerge : (volumeMerge old vol mask).getLsbD k =
      (old.getLsbD k && !mask.getLsbD k || vol.getLsbD k && mask.getLsbD k) := by
    simp only [volumeMerge, BitVec.getLsbD_or, BitVec.getLsbD_and, BitVec.getLsbD_not, BitVec.getLsbD_setWidth, hk,
      decide_true, Bool.true_and]
  rw [hmerge]
  cases mask.getLsbD k <;> simp

section
variable {n : Nat} {vol : Byte} {mask : Bits9}

/-- Under a mask of the low bits, a volume that fits it loses nothing. -/
theorem vol_and_lowMask (hmask : mask.toNat = 2 ^ n - 1) (hvol : vol.toNat < 2 ^ n) :
    vol.setWidth 9 &&& mask = vol.setWidth 9 := by
  apply BitVec.eq_of_toNat_eq
  have hwidth : vol.toNat < 2 ^ 9 := vol.isLt.trans (by decide)
  rw [BitVec.toNat_and, BitVec.toNat_setWidth, Nat.mod_eq_of_lt hwidth, hmask,
    Nat.and_two_pow_sub_one_of_lt_two_pow hvol]

theorem volumeMerge_of_lowMask {high : Bits9} (old : Bits9) (hhigh : ~~~mask = high) (hmask : mask.toNat = 2 ^ n - 1)
    (hvol : vol.toNat < 2 ^ n) : volumeMerge old vol mask = old &&& high ||| vol.setWidth 9 := by
  rw [volumeMerge, vol_and_lowMask hmask hvol, hhigh]

/-- Under a mask of the low bits, the merge sets them to the volume and keeps the bits above. -/
theorem volumeMerge_lowMask (old : Bits9) (hn : n ≤ 9) (hmask : mask.toNat = 2 ^ n - 1) (hvol : vol.toNat < 2 ^ n) :
    (volumeMerge old vol mask).toNat % 2 ^ n = vol.toNat ∧
      (volumeMerge old vol mask).toNat / 2 ^ n = old.toNat / 2 ^ n := by
  have hbit (k : Nat) (hk : k < 9) :
      (volumeMerge old vol mask).getLsbD k = if k < n then vol.getLsbD k else old.getLsbD k := by
    rw [volumeMergeBitByBit old vol mask k hk, ← BitVec.testBit_toNat mask, hmask, Nat.testBit_two_pow_sub_one]
    simp only [decide_eq_true_eq]
  constructor <;> apply Nat.eq_of_testBit_eq <;> intro j
  · rw [Nat.testBit_mod_two_pow, BitVec.testBit_toNat, BitVec.testBit_toNat]
    by_cases hj : j < n
    · simp [hbit j (by omega), hj]
    · have hhigh : vol.getLsbD j = false :=
        Nat.testBit_lt_two_pow (hvol.trans_le (Nat.pow_le_pow_right (by decide) (by omega)))
      simp [hj, hhigh]
  · rw [Nat.testBit_div_two_pow, Nat.testBit_div_two_pow, BitVec.testBit_toNat, BitVec.testBit_toNat]
    by_cases hj : j + n < 9
    · simp [hbit (j + n) hj]
    · rw [BitVec.getLsbD_of_ge _ _ (by omega), BitVec.getLsbD_of_ge _ _ (by omega)]

end

end Sys2Proof.Proofs

/-! ## What each codec command does (41_codec.md R190 to R202) -/

namespace Sys2Proof.Proofs

open Sys2Proof.Machine

/-! ### One register write -/

/-- All a command that ends in one register write does (41_codec.md R184). -/
theorem complete_setReg (a r : Bits7) (v : Bits9) (s : State) :
    complete (setReg a r v s) = .next
      { s with
        codec := { s.codec with shadow := s.codec.shadow.setIfInBounds r.toNat v }
        trace := s.trace ++ [.i2cWrite a (regByte0 r v) (regByte1 v)]
        result := none } := by
  rw [← writeShadow_eq]
  rfl

theorem exec_codecSet {s : State} {a : Bits7} (haddr : s.codec.addr = some a) (r : Bits7) (v : Bits9) :
    exec (.codecSet r v) s = complete (setReg a r v s) := by
  rw [exec, execCodecSet, requireCodecBegun_of_some haddr]

/-- Settles O31: the guard, and then one register write. -/
theorem codecSetEffect : Obligations.CodecSetEffect := by
  intro s r v
  refine ⟨fun a haddr => ?_, fun haddr => ?_, (BitVec.or_assoc _ _ _).symm⟩
  · rw [exec_codecSet haddr, complete_setReg]
  · rw [exec, execCodecSet, requireCodecBegun_of_none haddr]

/-- Settles O32: the command is guarded by nothing. -/
theorem codecGetEffect : Obligations.CodecGetEffect := fun _ _ => ⟨rfl, rfl⟩

/-- Settles O33: the reset register is above the shadow under a legal parameter set, so its write changes no cell. -/
theorem codecResetEffect : Obligations.CodecResetEffect := by
  intro s hlegal
  obtain ⟨-, -, ⟨-, hreset⟩, -⟩ := hlegal
  have hword : encode .codecReset = 0x1100000000000000#64 := by decide
  refine ⟨fun a haddr => ?_, fun haddr => ?_, hword⟩
  · rw [exec, execCodecReset, requireCodecBegun_of_some haddr, complete_setReg, ← writeShadow_eq,
      writeShadow_of_ge hreset]
  · rw [exec, execCodecReset, requireCodecBegun_of_none haddr, hword]

/-- Settles O34: the guard, and then one register write, in both commands. -/
theorem codecActivationEffect : Obligations.CodecActivationEffect := by
  intro s active
  have hactive : encode .codecSetActive = 0x1200000000000000#64 := by decide
  have hinactive : encode .codecSetInactive = 0x1300000000000000#64 := by decide
  refine ⟨fun a haddr => ⟨?_, ?_⟩, fun haddr => ⟨?_, ?_⟩, hactive, hinactive⟩
  · rw [exec, execCodecSetActive, requireCodecBegun_of_some haddr, complete_setReg, toReg_toNat]
  · rw [exec, execCodecSetInactive, requireCodecBegun_of_some haddr, complete_setReg, toReg_toNat]
  · rw [exec, execCodecSetActive, requireCodecBegun_of_none haddr, hactive]
  · rw [exec, execCodecSetInactive, requireCodecBegun_of_none haddr, hinactive]

/-- Settles O38: the write reaches the cell, and the read finds it there. -/
theorem setThenGet : Obligations.SetThenGet := by
  intro s a i v haddr
  refine ⟨_, _, exec_codecSet haddr i.toReg v, rfl, congrArg some ?_⟩
  exact (writeShadow_get s.codec.shadow i.toReg v i).trans (if_pos (toReg_toNat i))

/-- Settles O39: the write is sent whatever the register, and above the shadow it reaches no cell. -/
theorem outOfRangeSetIsSent : Obligations.OutOfRangeSetIsSent := by
  intro s a r v haddr hr
  have hshadow : (setReg a r v s).codec.shadow = s.codec.shadow := writeShadow_of_ge hr
  refine ⟨_, exec_codecSet haddr r v, hshadow, rfl, fun i => ?_⟩
  rw [← hshadow]
  rfl

/-! ### The volume setters -/

section
variable {left right : ShadowIndex} {s : State} {a : Bits7} {vol : Byte} {mask : Bits9}

/-- All a volume setter does past its guard: each of two distinct cells is merged from its own value (R194, R195). -/
theorem complete_mergeVolumes (hne : left ≠ right) :
    let newLeft := volumeMerge s.codec.shadow[left] vol mask
    let newRight := volumeMerge s.codec.shadow[right] vol mask
    complete (mergeVolume a right vol mask (mergeVolume a left vol mask s)) = .next
      { s with
        codec := { s.codec with
          shadow := (s.codec.shadow.setIfInBounds left.val newLeft).setIfInBounds right.val newRight }
        trace := s.trace ++
          [.i2cWrite a (regByte0 left.toReg newLeft) (regByte1 newLeft),
           .i2cWrite a (regByte0 right.toReg newRight) (regByte1 newRight)]
        result := none } := by
  intro newLeft newRight
  have hright : readShadow (mergeVolume a left vol mask s) right = s.codec.shadow[right] :=
    (writeShadow_get _ _ _ _).trans (if_neg (by simpa [Fin.val_inj] using hne))
  rw [mergeVolume, hright, complete_setReg]
  simp [mergeVolume, readShadow, writeShadow_eq, newLeft, newRight]

/-- After a volume setter with a mask of the low bits, both cells have the volume there and their old bits above. -/
theorem mergeVolumes_lowMask {n : Nat} (hne : left ≠ right) (hn : n ≤ 9) (hmask : mask.toNat = 2 ^ n - 1)
    (hvol : vol.toNat < 2 ^ n) :
    ∃ t : State, complete (mergeVolume a right vol mask (mergeVolume a left vol mask s)) = .next t ∧
      ∀ i : ShadowIndex, i = left ∨ i = right →
        t.codec.shadow[i].toNat % 2 ^ n = vol.toNat ∧
          t.codec.shadow[i].toNat / 2 ^ n = s.codec.shadow[i].toNat / 2 ^ n := by
  refine ⟨_, complete_mergeVolumes hne, fun i hi => ?_⟩
  have hcell := volumeMerge_lowMask s.codec.shadow[i] hn hmask hvol
  obtain rfl | rfl := hi
  · simpa [Vector.getElem_setIfInBounds, Fin.val_inj, hne.symm] using hcell
  · simpa using hcell

end

theorem lineIn_ne {p : Config.Params} (hlegal : Config.Legal p) : p.regLeftLineIn ≠ p.regRightLineIn := by
  obtain ⟨-, -, ⟨hnodup, -⟩, -⟩ := hlegal
  exact fun h => (List.nodup_cons.mp hnodup).1 (h ▸ List.mem_cons_self)

theorem hpOut_ne {p : Config.Params} (hlegal : Config.Legal p) : p.regLeftHpOut ≠ p.regRightHpOut := by
  obtain ⟨-, -, ⟨hnodup, -⟩, -⟩ := hlegal
  exact fun h => (List.nodup_cons.mp hnodup.tail.tail).1 (h ▸ List.mem_cons_self)

theorem exec_codecSetInputVolume {s : State} {a : Bits7} (haddr : s.codec.addr = some a) (vol : Byte) :
    exec (.codecSetInputVolume vol) s =
      complete (mergeVolume a s.inst.params.regRightLineIn vol s.inst.params.inVolMask
        (mergeVolume a s.inst.params.regLeftLineIn vol s.inst.params.inVolMask s)) := by
  rw [exec, execCodecSetInputVolume, requireCodecBegun_of_some haddr]

theorem exec_codecSetOutputVolume {s : State} {a : Bits7} (haddr : s.codec.addr = some a) (vol : Byte) :
    exec (.codecSetOutputVolume vol) s =
      complete (mergeVolume a s.inst.params.regRightHpOut vol s.inst.params.outVolMask
        (mergeVolume a s.inst.params.regLeftHpOut vol s.inst.params.outVolMask s)) := by
  rw [exec, execCodecSetOutputVolume, requireCodecBegun_of_some haddr]

/-- Settles O35: the guard, and then two merges of distinct cells. -/
theorem inputVolumeEffect : Obligations.InputVolumeEffect := by
  intro s vol hlegal hvol l r mask nl nr
  refine ⟨fun hmask => ?_, fun a haddr => ?_, fun haddr => ?_, rfl⟩
  · have hmerge (old : Bits9) := volumeMerge_of_lowMask (n := 5) old (congrArg (~~~ ·) hmask)
      (congrArg BitVec.toNat hmask) (Nat.lt_succ_of_le hvol)
    exact ⟨hmerge _, hmerge _⟩
  · exact (exec_codecSetInputVolume haddr vol).trans (complete_mergeVolumes (lineIn_ne hlegal))
  · rw [exec, execCodecSetInputVolume, requireCodecBegun_of_none haddr]

/-- Settles O36: the guard, and then two merges of distinct cells. -/
theorem outputVolumeEffect : Obligations.OutputVolumeEffect := by
  intro s vol hlegal hvol l r mask nl nr
  refine ⟨fun hmask => ?_, fun a haddr => ?_, fun haddr => ?_, rfl⟩
  · have hmerge (old : Bits9) := volumeMerge_of_lowMask (n := 6) old (congrArg (~~~ ·) hmask)
      (congrArg BitVec.toNat hmask) (Nat.lt_succ_of_le hvol)
    exact ⟨hmerge _, hmerge _⟩
  · exact (exec_codecSetOutputVolume haddr vol).trans (complete_mergeVolumes (hpOut_ne hlegal))
  · rw [exec, execCodecSetOutputVolume, requireCodecBegun_of_none haddr]

/-- Settles O40: the two masks are those of the low five and the low six bits. -/
theorem volumeSettersKeepHighBits : Obligations.VolumeSettersKeepHighBits := by
  intro s a vol hlegal haddr
  refine ⟨fun hmask hvol => ?_, fun hmask hvol => ?_⟩
  · obtain ⟨t, hexec, hcells⟩ := mergeVolumes_lowMask (n := 5) (a := a) (lineIn_ne hlegal) (by decide)
      (congrArg BitVec.toNat hmask) (Nat.lt_succ_of_le hvol)
    exact ⟨t, (exec_codecSetInputVolume haddr vol).trans hexec, hcells⟩
  · obtain ⟨t, hexec, hcells⟩ := mergeVolumes_lowMask (n := 6) (a := a) (hpOut_ne hlegal) (by decide)
      (congrArg BitVec.toNat hmask) (Nat.lt_succ_of_le hvol)
    exact ⟨t, (exec_codecSetOutputVolume haddr vol).trans hexec, hcells⟩

/-! ### Beginning the codec -/

/-- What a list of register writes leaves in the shadow. -/
abbrev writeCells (ws : List (Bits7 × Bits9)) (sh : Vector Bits9 10) : Vector Bits9 10 :=
  ws.foldl (fun sh rv => writeShadow sh rv.1 rv.2) sh

theorem writeCells_get_of_notMem {ws : List (Bits7 × Bits9)} {i : ShadowIndex} (hi : i.toReg ∉ ws.map Prod.fst)
    (sh : Vector Bits9 10) : (writeCells ws sh)[i] = sh[i] := by
  induction ws generalizing sh with
  | nil => rfl
  | cons rv rest ih =>
    obtain ⟨hne, hrest⟩ := not_or.mp (mt List.mem_cons.mpr hi)
    refine (ih hrest _).trans ((writeShadow_get sh rv.1 rv.2 i).trans (if_neg fun h => hne ?_))
    exact (toReg_eq_iff.mpr h).symm

/-- When no register is written twice, each cell holds the value its register was given. -/
theorem writeCells_get_of_mem {ws : List (Bits7 × Bits9)} (hnodup : (ws.map Prod.fst).Nodup) {i : ShadowIndex}
    {v : Bits9} (hmem : (i.toReg, v) ∈ ws) (sh : Vector Bits9 10) : (writeCells ws sh)[i] = v := by
  induction ws generalizing sh with
  | nil => cases hmem
  | cons rv rest ih =>
    obtain ⟨hfresh, hnodup⟩ := List.nodup_cons.mp hnodup
    obtain rfl | hmem := List.mem_cons.mp hmem
    · refine (writeCells_get_of_notMem hfresh _).trans ?_
      exact (writeShadow_get sh i.toReg v i).trans (if_pos (toReg_toNat i))
    · exact ih hnodup hmem _

/-- The registers `CODEC_BEGIN` writes are `REG_RESET` and the shadowed ones but `REG_ACTIVE`, each once (R190). -/
theorem beginWrites_regs_perm (p : Config.Params) (fmt wl : Byte) (rate : BitVec 32) :
    ((beginWrites p fmt wl rate).map Prod.fst ++ [p.regActive.toReg]).Perm
      (p.regReset :: (Config.shadowedRegs p).map ShadowIndex.toReg) :=
  .cons _ (.append_right [p.regSampling.toReg, p.regActive.toReg]
    (List.perm_append_comm (l₁ := [p.regPowerDown.toReg, p.regInterfaceFormat.toReg])
      (l₂ := [p.regLeftLineIn.toReg, p.regRightLineIn.toReg, p.regLeftHpOut.toReg, p.regRightHpOut.toReg,
        p.regAnalogPath.toReg, p.regDigitalPath.toReg])))

theorem toReg_injective : Function.Injective ShadowIndex.toReg :=
  fun i j h => Fin.ext (by simpa using congrArg BitVec.toNat h)

theorem beginWrites_regs_nodup {p : Config.Params} (hlegal : Config.Legal p) (fmt wl : Byte) (rate : BitVec 32) :
    ((beginWrites p fmt wl rate).map Prod.fst ++ [p.regActive.toReg]).Nodup := by
  obtain ⟨-, -, ⟨hnodup, hreset⟩, -⟩ := hlegal
  refine (beginWrites_regs_perm p fmt wl rate).nodup_iff.mpr (List.nodup_cons.mpr ⟨fun hmem => ?_, ?_⟩)
  · obtain ⟨i, -, hi⟩ := List.mem_map.mp hmem
    rw [← hi, toReg_toNat] at hreset
    omega
  · exact hnodup.map toReg_injective

theorem encode_codecBegin (a : Bits7) (fmt wl : Byte) (rate : BitVec 32) :
    encode (.codecBegin a fmt wl rate) =
      0x10#64 <<< 56 ||| a.setWidth 64 <<< 48 ||| fmt.setWidth 64 <<< 40 ||| wl.setWidth 64 <<< 32 |||
        rate.setWidth 64 := by
  simp only [encode, operandBits, ← BitVec.or_assoc]
  rfl

/-- Settles O37: no register is written twice, so each cell keeps what its one write gave it, and `REG_ACTIVE` is not
among the registers written. -/
theorem codecBeginEffect : Obligations.CodecBeginEffect := by
  intro s a fmt wl rate hlegal p send
  obtain ⟨hnodup, -, hactive⟩ := List.nodup_append.mp (beginWrites_regs_nodup hlegal fmt wl rate)
  have hwritten {i : ShadowIndex} {v : Bits9} (hmem : (i.toReg, v) ∈ beginWrites p fmt wl rate) :
      (writeCells (beginWrites p fmt wl rate) s.codec.shadow)[i] = v :=
    writeCells_get_of_mem hnodup hmem _
  have hkept : (writeCells (beginWrites p fmt wl rate) s.codec.shadow)[p.regActive] = s.codec.shadow[p.regActive] :=
    writeCells_get_of_notMem (fun hmem => hactive _ hmem _ List.mem_cons_self rfl) _
  refine ⟨⟨writeCells (beginWrites p fmt wl rate) s.codec.shadow, ?_, hwritten ?_, hwritten ?_, hwritten ?_,
    hwritten ?_, hwritten ?_, hwritten ?_, hwritten ?_, hwritten ?_, hwritten ?_, hkept⟩,
    encode_codecBegin a fmt wl rate⟩
  · simp only [exec, execCodecBegin, setRegs_eq, initBus_eq]
    rfl
  all_goals simp [beginWrites]

end Sys2Proof.Proofs

/-! ## Instantiation, stops and the step of a live block (60_exceptions.md R241 to R246) -/

namespace Sys2Proof.Proofs

open Sys2Proof.Machine Sys2Proof.Safety

/-! ### Instantiation (60_exceptions.md R245) -/

/-- The parameter set of this hardware is legal whatever the OPEN values are: the checks on them hold by their types. -/
theorem legal_defaults : Config.Legal Config.defaults :=
  ⟨⟨Nat.succ_pos _, by decide⟩, by decide, by decide, by decide⟩

theorem instantiate_of_legal {p : Config.Params} (hlegal : Config.Legal p) (f d : Bool) :
    State.instantiate p f d = some (State.boot { params := p, ctrlFast := f, ctrlPowerDown := d }) :=
  if_pos hlegal

/-- Settles O2: R11, R12 and R13 are each a part of `Legal`, which is what instantiation checks. -/
theorem brokenParametersAreRefused : Obligations.BrokenParametersAreRefused := by
  refine ⟨fun p f d => ⟨fun hbroken => if_neg ?_, fun hlegal => ?_⟩, legal_defaults⟩
  · rintro ⟨-, h11, h12, h13⟩
    obtain h | h | h := hbroken
    · exact h h11
    · exact h h12
    · exact h h13
  · exact ⟨instantiate_of_legal hlegal f d, instantiate_of_legal hlegal false false⟩

/-! ### The step of a live and of a stopped block -/

theorem step_of_stopReason {s : State} {f : Fault} (h : stopReason s = some f) : step s = .fault f := by
  simp [step, h]

/-- Settles O42: the step takes the refusal, and the refusal is then the reason to stop. -/
theorem refusedWordStopsTheBlock : Obligations.RefusedWordStopsTheBlock := by
  intro s w r hlive hword hdecode
  have hfetch : fetch s = some w := hword
  refine ⟨?_, step_of_stopReason ?_⟩
  · simp [step, stopReason_eq_none.mpr hlive, hfetch, hdecode, takeRefusal]
  · simp [stopReason, hlive.1]

theorem exec_answers_next (i : Instr) (s : State) : ∃ t : State, exec i s = .next t := by
  obtain ⟨f, hf, -⟩ := exec_actsWithin i
  exact ⟨f s, hf s⟩

/-- Settles O45: a live block waits, refuses its next word or runs the word's command, and each answers a next state. -/
theorem liveBlockAlwaysSteps : Obligations.LiveBlockAlwaysSteps := by
  refine ⟨exec_answers_next, fun s hlive => ?_⟩
  cases hword : s.host.program[s.host.k]? with
  | none => exact ⟨s, blockWaitsForAWord s hlive (List.getElem?_eq_none_iff.mp hword)⟩
  | some w =>
    cases hdecode : decode s.inst.params w with
    | error r => exact ⟨_, (refusedWordStopsTheBlock s w r hlive hword hdecode).1⟩
    | ok i =>
      obtain ⟨t, hexec⟩ := exec_answers_next i s
      exact ⟨_, stepRunsDecodedCommand s w i hlive hword hdecode t hexec⟩

/-! ### Faults (60_exceptions.md R241, R242) -/

/-- Settles O46: a command that completes keeps the fault record empty, so a command after which one is set has faulted,
and a recorded fault is the first reason to stop. -/
theorem faultIsPrecise : Obligations.FaultIsPrecise := by
  intro i s t r hnone hexec hfault
  obtain ⟨r', hr', rfl⟩ | ⟨u, hops, rfl⟩ := exec_cases hexec
  · obtain rfl : r' = r := Option.some.inj hfault
    exact ⟨rfl, hr', step_of_stopReason rfl⟩
  · have hkept : u.fault = none := (samePorts_of_unitOps hops).fault.trans hnone
    exact absurd (hkept.symm.trans hfault) nofun

/-! ### One stop reason, and the position (60_exceptions.md R246, 10_state.md R33) -/

/-- A step starts with neither record set, a refusal sets one, and a command does not write the other. -/
theorem oneStopReason_of_step {s t : State} (hstep : step s = .next t) : OneStopReason t := by
  obtain ⟨⟨hfault, hrefused⟩, ⟨-, rfl⟩ | ⟨_, r, -, -, rfl⟩ | ⟨_, i, u, -, -, hexec, rfl⟩⟩ := step_cases hstep
  · exact .inl hfault
  · exact .inl hfault
  · exact .inr (by rw [moved_refused, exec_keeps_refused hexec, hrefused])

theorem step_of_no_word {s t : State} (hword : fetch s = none) (hstep : step s = .next t) : t = s := by
  obtain ⟨-, ⟨-, rfl⟩ | ⟨w, -, hw, -⟩ | ⟨w, -, -, hw, -⟩⟩ := step_cases hstep
  · rfl
  · cases hword.symm.trans hw
  · cases hword.symm.trans hw

/-- The position moves only past a presented word, which lies inside the program. -/
theorem step_keeps_positionInProgram {s t : State} (hs : PositionInProgram s) (hstep : step s = .next t) :
    PositionInProgram t := by
  cases hword : fetch s with
  | none => rwa [step_of_no_word hword hstep]
  | some w =>
    have hinside : s.host.k < s.host.program.length := (List.getElem?_eq_some_iff.mp hword).1
    obtain ⟨hprogram, hmoves, hstays⟩ := positionMovesOnCompletion s t w hword hstep
    rw [PositionInProgram, hprogram]
    by_cases hdone : t.fault = none ∧ t.refused = none
    · rw [hmoves hdone.1 hdone.2]
      exact hinside
    · rw [hstays (not_and_or.mp hdone)]
      exact hs

/-- Settles O59: a step that answers a next state began in a live block, whose position it moves only past a word. -/
theorem stepKeepsStopAndPosition : Obligations.StepKeepsStopAndPosition :=
  fun _ _ _ hs hstep => ⟨oneStopReason_of_step hstep, step_keeps_positionInProgram hs hstep⟩

end Sys2Proof.Proofs

/-! ## Bits 15:12 of a DAC value (70_reset_and_hazards.md R281) -/

namespace Sys2Proof.Proofs

open Sys2Proof.Machine

/-- Both bytes read the value through its wire format, which masks it before anything else. -/
theorem dacBytes_and_value (c : Config.Instantiation) (code : Byte) (v : BitVec 16) :
    dacByte0 c code (v &&& 0x0FFF#16) = dacByte0 c code v ∧ dacByte1 (v &&& 0x0FFF#16) = dacByte1 v := by
  have hmask : v &&& 0x0FFF#16 &&& 0x0FFF#16 = v &&& 0x0FFF#16 := by rw [BitVec.and_assoc, BitVec.and_self]
  obtain ⟨hbyte0, hbyte1⟩ := dacBytesAreWireFormat c code v
  obtain ⟨hcut0, hcut1⟩ := dacBytesAreWireFormat c code (v &&& 0x0FFF#16)
  rw [hmask] at hcut0 hcut1
  exact ⟨hcut0.trans hbyte0.symm, hcut1.trans hbyte1.symm⟩

section
variable (frame : Byte → Byte → State → State)

theorem sendDac_and_value (code : Byte) (v : BitVec 16) :
    sendDac frame code (v &&& 0x0FFF#16) = sendDac frame code v := by
  funext s
  obtain ⟨hbyte0, hbyte1⟩ := dacBytes_and_value s.inst code v
  rw [sendDac, sendDac, hbyte0, hbyte1]

/-- The words differ only in the fault they would give, which a begun unit does not raise. -/
theorem dacWriteOne_and_value (w w' : Word64) (sel : DacSel) (v : BitVec 16) {s : State} (hbegun : s.dac.begun = true) :
    requireBegun w s (dacWriteOne frame sel v) = requireBegun w' s (dacWriteOne frame sel (v &&& 0x0FFF#16)) := by
  rw [requireBegun_of_begun hbegun, requireBegun_of_begun hbegun, dacWriteOne, dacWriteOne, sendDac_and_value]

/-- The dual write sends each value in a frame of its own. -/
theorem dacWriteTwo_and_value (w w' : Word64) (va vb : BitVec 16) {s : State} (hbegun : s.dac.begun = true) :
    requireBegun w s (dacWriteTwo frame va vb) =
      requireBegun w' s (dacWriteTwo frame (va &&& 0x0FFF#16) (vb &&& 0x0FFF#16)) := by
  rw [requireBegun_of_begun hbegun, requireBegun_of_begun hbegun, dacWriteTwo, dacWriteTwo, sendDac_and_value,
    sendDac_and_value]

end

/-- Settles O23: each write puts its values on the wire through `sendDac` only, by either framing. -/
theorem dacValueHighBitsDropped : Obligations.DacValueHighBitsDropped := by
  intro s sel v va vb hbegun
  exact ⟨dacWriteOne_and_value delayedFrame _ _ sel v hbegun, dacWriteOne_and_value fastFrame _ _ sel v hbegun,
    dacWriteTwo_and_value delayedFrame _ _ va vb hbegun, dacWriteTwo_and_value fastFrame _ _ va vb hbegun⟩

end Sys2Proof.Proofs

/-! ## The state after reset (70_reset_and_hazards.md R270) -/

namespace Sys2Proof.Proofs

open Sys2Proof.Machine Sys2Proof.Safety

theorem boot_shadow (c : Config.Instantiation) (i : ShadowIndex) : (State.boot c).codec.shadow[i] = 0x000#9 :=
  Vector.getElem_replicate i.isLt

/-- Settles O1: reset writes each field out; the shadow is ten copies of one cell. -/
theorem resetLeavesSpecValues : Obligations.ResetLeavesSpecValues :=
  ⟨fun c => ⟨rfl, rfl, rfl, rfl, boot_shadow c, rfl, rfl, rfl, rfl, rfl⟩, rfl⟩

/-! ### Nothing sent yet -/

theorem powerUp_reg (r : Bits7) : CodecChip.powerUp.reg r = none := Vector.getElem_replicate r.isLt

section
variable {s : State} (hsilent : s.trace = [])
include hsilent

theorem strapAddressesOnly_of_silent (haddr : s.codec.addr = none) : StrapAddressesOnly s := by
  simp [StrapAddressesOnly, hsilent, haddr]

theorem wellFramed_of_silent : WellFramed s := by
  rw [wellFramed_iff, hsilent]
  exact framed_of_codec (List.forall_mem_nil _)

theorem dacChipUnderstood_of_silent : DacChipUnderstood s := by
  rw [dacChipUnderstood_iff, hsilent]
  exact understood_of_codec (List.forall_mem_nil _)

theorem shadowIsLastSent_of_silent (hshadow : ∀ i : ShadowIndex, s.codec.shadow[i] = 0x000#9) : ShadowIsLastSent s := by
  intro i
  rw [hshadow, hsilent]
  rfl

/-- No acknowledged write has been sent. -/
theorem ackedWriteIsMirrored_of_silent (strap : Bits7) (ack : Nat → Bool) : AckedWriteIsMirrored strap ack s := by
  intro i before later b0 b1 hsplit
  simp [hsilent] at hsplit

/-- The chip is as at power-up, when it is known to hold nothing. -/
theorem shadowMirrorsChip_of_silent (strap : Bits7) : ShadowMirrorsChip strap s := by
  intro _ i
  rw [ackedChip, hsilent]
  exact .inl (powerUp_reg i.toReg)

end

/-- Settles O60: both units are at rest, and every claim about the trace holds of a block that has sent nothing. -/
theorem resetMeetsTheInvariants : Obligations.ResetMeetsTheInvariants := by
  intro c ws strap s
  have hsilent : s.trace = [] := rfl
  have hrest : DacAtRest s := ⟨rfl, rfl⟩
  have hnoInit : OneBusInit s := ⟨rfl, rfl⟩
  exact ⟨hrest, rfl, hnoInit, strapAddressesOnly_of_silent hsilent rfl, wellFramed_of_silent hsilent,
    dacChipUnderstood_of_silent hsilent, shadowIsLastSent_of_silent hsilent (boot_shadow c),
    ackedWriteIsMirrored_of_silent hsilent strap, shadowMirrorsChip_of_silent hsilent strap, .inl rfl, Nat.zero_le _⟩

end Sys2Proof.Proofs
